-- ==== Sys2Proof/Word.lean ====
section
/-! DEFINITION. The widths the block's registers and ports have (10_state.md R20, 20_memory.md R50). -/

namespace Sys2Proof

/-- One byte: an immediate, a command id, a target id, a frame byte. -/
abbrev Byte := BitVec 8

/-- Sixteen bits: the CRC register (R25). -/
abbrev Half := BitVec 16

/-- One bus word, also an operation word (R50, R70). -/
abbrev Word := BitVec 32

/-- The 64-bit pattern of an IEEE 754 binary64 value (R21, R132). -/
abbrev F64 := BitVec 64

/-- A byte offset from `BASE`, `0x00` to `0x3F` (R50). -/
abbrev Offset := BitVec 6

end Sys2Proof
end

