-- ==== Sys2Proof/Syntax.lean ====
section
/-! DEFINITION. The nine operations of 30_encoding.md R73 and the reasons a word is none of them (R74). -/

namespace Sys2Proof

/-- One constructor per row of spec/opcode_table.json. A format N operation has no operand, a format I
operation has the immediate byte `imm8`, "any value `0x00..0xFF`" (R71), so its type carries its range. -/
inductive Instr where
  /-- `CRC.INIT` (R99) -/
  | crcInit
  /-- `CRC.BYTE imm8` (R100): `imm8` is the data byte -/
  | crcByte (imm8 : Byte)
  /-- `CMD.SEL imm8` (R114): `imm8` is a command id -/
  | cmdSel (imm8 : Byte)
  /-- `TID.SET imm8` (R115): `imm8` is a target device id -/
  | tidSet (imm8 : Byte)
  /-- `TID.CLR` (R116) -/
  | tidClr
  /-- `SCALE` (R136) -/
  | scale
  /-- `ENC.UART` (R156) -/
  | encUart
  /-- `ENC.CAN` (R176) -/
  | encCan
  /-- `ERR.CLR` (R190) -/
  | errClr
deriving DecidableEq, Repr

/-- Why a word is illegal (R74): the three clauses of the rule, in the order R75's decoder checks them. -/
inductive Illegal where
  /-- `W[31:16] != 0` -/
  | upperBits
  /-- the opcode is not one of the nine -/
  | opcode
  /-- a format N opcode with `imm8 != 0` -/
  | immediate
deriving DecidableEq, Repr

end Sys2Proof
end

