-- ==== Sys2Proof/WellFormed.lean ====
section
/-! DEFINITION. Well-formedness. An `Instr` needs no check: R71 admits every byte as an immediate, and the type
`Byte` is that range. The parameter that has conditions is the command table `CMDTAB`, and they are the five of
41_command_table_and_message.md R111. -/

namespace Sys2Proof

/-- The name of a command type. The four constructors without argument are the variants doc00 names;
`other` stands for "and may have more (the \"...\")" (R111 condition 2; log 12). -/
inductive CmdName where
  | setDutyCycle
  | setRpm
  | setCurrent
  | setPosition
  | other (label : String)
deriving DecidableEq, Repr

/-- A row `(name, id, scale)` of `CMDTAB` (R111); `scale` is the binary64 pattern. -/
structure CmdRow where
  name : CmdName
  id : Byte
  scale : F64
deriving DecidableEq, Repr

/-- R111 condition 1: "the `id`s are pairwise distinct". -/
abbrev idsDistinct (rows : List CmdRow) : Prop := (rows.map CmdRow.id).Nodup

/-- R111 condition 2: rows named `SetDutyCycle`, `SetRpm`, `SetCurrent` and `SetPosition` are there. -/
abbrev namesPresent (rows : List CmdRow) : Prop :=
  ∀ n ∈ [CmdName.setDutyCycle, .setRpm, .setCurrent, .setPosition], n ∈ rows.map CmdRow.name

/-- R111 condition 3: "the row `SetRpm` has `id = 0x03`". -/
abbrev rpmIsThree (rows : List CmdRow) : Prop := ∀ r ∈ rows, r.name = .setRpm → r.id = 3

/-- R111 condition 4: no scale is a NaN or an infinity (exponent field 2047, R132). -/
abbrev scalesFinite (rows : List CmdRow) : Prop := ∀ r ∈ rows, r.scale.extractLsb' 52 11 ≠ 2047

/-- R111 condition 5: "the `name`s are pairwise distinct". -/
abbrev namesDistinct (rows : List CmdRow) : Prop := (rows.map CmdRow.name).Nodup

/-- The five conditions of R111 together. -/
abbrev cmdRowsWf (rows : List CmdRow) : Prop :=
  idsDistinct rows ∧ namesPresent rows ∧ rpmIsThree rows ∧ scalesFinite rows ∧ namesDistinct rows

/-- A command table: rows that meet the five conditions (R111: "a structure with those conditions as fields"). -/
structure CmdTab where
  rows : List CmdRow
  wf : cmdRowsWf rows
deriving DecidableEq, Repr

end Sys2Proof
end

