-- ==== Sys2Proof/Decode.lean ====
section
/-! DEFINITION. Operation words: the total decoder of 30_encoding.md R75, the encoder, and the match/mask rows of R73. -/

namespace Sys2Proof

/-- `opcode = W[7:0]` (R70). -/
def opcodeField (w : Word) : Byte := w.extractLsb' 0 8

/-- `imm8 = W[15:8]`, never extended, scaled or shifted (R70, R72). -/
def immField (w : Word) : Byte := w.extractLsb' 8 8

/-- `zero = W[31:16]`, must be `0x0000` (R70). -/
def zeroField (w : Word) : Half := w.extractLsb' 16 16

/-- Format N: `imm8` must be `0x00` (R71). -/
def decodeFormatN (i : Instr) (w : Word) : Except Illegal Instr :=
  if immField w = 0 then .ok i else .error .immediate

/-- Format I: `imm8` is the operand and may be any value (R71). -/
def decodeFormatI (f : Byte → Instr) (w : Word) : Except Illegal Instr := .ok (f (immField w))

/-- The decoder of R75: every one of the 2^32 words has exactly one outcome. -/
def decode (w : Word) : Except Illegal Instr :=
  if zeroField w ≠ 0 then .error .upperBits
  else
    match (opcodeField w).toNat with
    | 0x01 => decodeFormatN .crcInit w
    | 0x02 => decodeFormatI .crcByte w
    | 0x10 => decodeFormatI .cmdSel w
    | 0x11 => decodeFormatI .tidSet w
    | 0x12 => decodeFormatN .tidClr w
    | 0x20 => decodeFormatN .scale w
    | 0x30 => decodeFormatN .encUart w
    | 0x31 => decodeFormatN .encCan w
    | 0x40 => decodeFormatN .errClr w
    | _ => .error .opcode

/-- The word with `zero = 0x0000`, the given immediate and opcode (R70). -/
def opWord (imm opcode : Byte) : Word := (0 : Half) ++ imm ++ opcode

/-- The operation word of an instruction: the column "word" of R73's table. -/
def encode : Instr → Word
  | .crcInit => opWord 0 0x01
  | .crcByte imm8 => opWord imm8 0x02
  | .cmdSel imm8 => opWord imm8 0x10
  | .tidSet imm8 => opWord imm8 0x11
  | .tidClr => opWord 0 0x12
  | .scale => opWord 0 0x20
  | .encUart => opWord 0 0x30
  | .encCan => opWord 0 0x31
  | .errClr => opWord 0 0x40

/-- The columns "mask" and "match" of one row of R73's table. -/
structure OpRow where
  mask : Word
  matchBits : Word
deriving DecidableEq, Repr

/-- "a word `W` selects the row when `W & mask = match`" (R73). -/
def OpRow.selects (r : OpRow) (w : Word) : Bool := w &&& r.mask == r.matchBits

/-- The row of R73's table that is the instruction's. -/
def opRow : Instr → OpRow
  | .crcInit => ⟨0xFFFFFFFF, 0x00000001⟩
  | .crcByte _ => ⟨0xFFFF00FF, 0x00000002⟩
  | .cmdSel _ => ⟨0xFFFF00FF, 0x00000010⟩
  | .tidSet _ => ⟨0xFFFF00FF, 0x00000011⟩
  | .tidClr => ⟨0xFFFFFFFF, 0x00000012⟩
  | .scale => ⟨0xFFFFFFFF, 0x00000020⟩
  | .encUart => ⟨0xFFFFFFFF, 0x00000030⟩
  | .encCan => ⟨0xFFFFFFFF, 0x00000031⟩
  | .errClr => ⟨0xFFFFFFFF, 0x00000040⟩

/-- R73's nine rows, in the table's order. -/
def opRows : List OpRow :=
  [.crcInit, .crcByte 0, .cmdSel 0, .tidSet 0, .tidClr, .scale, .encUart, .encCan, .errClr].map opRow

/-- What the decoder reads from a word of `nbits` bits, the bits above `nbits` zero. An operation word is one bus word, so
its bits are numbered as the table numbers them and no byte order is observable (R51 b). -/
def decodeTableWord (nbits w : Nat) : Option Instr :=
  match decode (BitVec.ofNat 32 (w % 2 ^ nbits)) with
  | .ok i => some i
  | .error _ => none

end Sys2Proof
end

