-- ==== Sys2Proof/Config.lean ====
section
/-! DEFINITION. The open parameters of 00_scope.md R8 (`BASE` is dropped, as R50 allows: log 5) and the free values. -/

namespace Sys2Proof

/-- A sink's answer to one submission: `ok` or `err(w)`, `w` 32 bits (R60, R61). -/
inductive SinkAnswer where
  | ok
  | err (w : Word)
deriving DecidableEq, Repr, Inhabited

/-- The default instantiation `CMDTAB_VESC` of R112, "for test vectors only": the machine never reads it. Here it
only witnesses that a table meeting the five conditions exists. -/
def cmdtabVesc : CmdTab where
  rows :=
    [⟨.setDutyCycle, 0, 0x40F86A0000000000⟩, ⟨.setCurrent, 1, 0x408F400000000000⟩,
     ⟨.other "SetCurrentBrake", 2, 0x408F400000000000⟩, ⟨.setRpm, 3, 0x3FF0000000000000⟩,
     ⟨.setPosition, 4, 0x412E848000000000⟩]
  wf := by decide

/-- The block's command table, without a body: any table that meets R111 (log 1). -/
opaque Config.cmdtabFree [Inhabited CmdTab] : CmdTab

/-- `CMDTAB`, "a constant lookup fixed when the block is built" (R38): nothing is known of it but `CmdTab.wf`. -/
def Config.cmdtab : CmdTab := @Config.cmdtabFree ⟨cmdtabVesc⟩

/-- FREE VALUE (log 2). `SINK`: the answer of a sink to the `n`-th submission for which the state holds no answer of
the environment's; "a draw per submission" (R8), "any answer at any submission". -/
opaque Config.sinkAnswer : Nat → SinkAnswer

/-- FREE VALUE (log 15). The scale of a command id that has no row: R113 defines `scale_for` only for ids of the table,
and R39 says that no other id is selected. -/
opaque Config.scaleOfNoRow : Byte → F64

/-- What tells one binary64 NaN from another (R132): its sign bit, and a number that its fraction is computed from. -/
structure NanBits where
  negative : Bool
  payload : Nat
deriving DecidableEq, Repr, Inhabited

/-- FREE VALUE (log 16). Which NaN the host software's `f64` product of two patterns is, where it is one (R201). -/
opaque Config.hostNan : F64 → F64 → NanBits

end Sys2Proof
end

