-- ==== Sys2Proof/Machine/State.lean ====
section
/-! DEFINITION. The state of one block (10_state.md R20, R41), the host's and the sinks' inputs as plain data, reset (R40). -/

namespace Sys2Proof.Machine

/-- One event of `OUT` (R37): a submission and the sink's answer. -/
inductive OutEvent where
  /-- `UartEvent(F, a)`: `frame` is `F[1]` to `F[10]`, in that order (R60) -/
  | uart (frame : List Byte) (answer : SinkAnswer)
  /-- `CanEvent(id, data, a)`: the 29-bit identifier and the 1 to 4 data bytes, first byte first (R61) -/
  | can (id : BitVec 29) (data : List Byte) (answer : SinkAnswer)
deriving DecidableEq, Repr

/-- One thing the host does to the block: a bus access (R50) or a reset (R250). The size of an access is in bytes; the
`data` of a write is meaningful for size 4, the only size that is not refused (R52; log 7). -/
inductive HostMove where
  | read (off : Offset) (size : Nat)
  | write (off : Offset) (size : Nat) (data : Word)
  | reset
deriving DecidableEq, Repr

/-- The bus's answer to one access (R50): a read's data, a write's `done`, or `BusFault` (R55). -/
inductive BusResp where
  | data (v : Word)
  | done
  | busFault
deriving DecidableEq, Repr

/-- The block and its surroundings. `val` to `out` are "exactly these fields" of R41; the rest is the model's own. -/
structure State where
  /-- `VAL` (R21) -/
  val : F64
  /-- `RAW` (R22) -/
  raw : Word
  /-- `CMD` (R23) -/
  cmd : Byte
  /-- `TID` (R24) -/
  tid : Byte
  /-- `CRC` (R25) -/
  crc : Half
  /-- `CMDV` (R27) -/
  cmdv : Bool
  /-- `TIDV` (R27) -/
  tidv : Bool
  /-- `RAWV` (R27) -/
  rawv : Bool
  /-- `LASTERR` (R28) -/
  lasterr : Byte
  /-- `ERRS` (R29) -/
  errs : BitVec 10
  /-- `XERR` (R30) -/
  xerr : Word
  /-- `OUT`, oldest event first (R37) -/
  out : List OutEvent
  /-- ghost: `ERRS` as if nothing ever cleared it (D24; log 9) -/
  errsEver : BitVec 10
  /-- ghost: the `OUT` of the runs before the latest reset (R252; log 8) -/
  past : List OutEvent
  /-- model's own: the host's moves that have not been served, oldest first (R57; log 3) -/
  pending : List HostMove
  /-- model's own: the sinks' answers the environment has fixed for the next submissions, oldest first (log 2) -/
  answers : List SinkAnswer
  /-- model's own: how many answers were drawn from `Config.sinkAnswer` (log 2) -/
  draws : Nat
  /-- model's own: the bus responses given so far, oldest first (R41, R50; log 6) -/
  resps : List BusResp
deriving DecidableEq, Repr

/-- The block right after reset, "every piece of state has a definite value" (R40); no host move, answer or response
yet (log 19). -/
def State.reset : State where
  val := 0
  raw := 0
  cmd := 0
  tid := 0
  crc := 0x0205
  cmdv := false
  tidv := false
  rawv := false
  lasterr := 0
  errs := 0
  xerr := 0
  out := []
  errsEver := 0
  past := []
  pending := []
  answers := []
  draws := 0
  resps := []

/-- Why the machine stops. No reason exists, so the type has no constructor and nothing raises one: "the block is never
stuck and never halts" (00_scope.md R16), errors are completion codes (R224) and a refused access is a bus response
(R55). That is exact, neither safe nor unsafe (log 11). -/
inductive Fault where
deriving DecidableEq, Repr

/-- Why a step has no meaning. -/
inductive Refusal where
  /-- Raised by an arm of `exec` whose instruction has no meaning yet: no arm is left (safe). -/
  | notModelled (mnemonic : String)
deriving DecidableEq, Repr

end Sys2Proof.Machine
end

