-- ==== Sys2Proof/Machine/Ops.lean ====
section
/-! DEFINITION. The shared operations: completing an operation, `raise` (60_exceptions.md R224), recording a refused access
(20_memory.md R55), submitting a frame (R60, R61), answering the host (R50). -/

namespace Sys2Proof.Machine

open Host (Outcome)

/-- The error kinds of R220; `transportError` carries the sink's word `w`. -/
inductive ErrKind where
  | payloadOverflow
  | missingTargetId
  /-- reserved: no operation raises it (R223) -/
  | checksumMismatch
  | transportError (w : Word)
  | illegalOp
  | badCommand
  | messageIncomplete
  | cmdIdRange
deriving DecidableEq, Repr

/-- The completion code of a kind (R220). -/
def errNumber : ErrKind → Nat
  | .payloadOverflow => 1
  | .missingTargetId => 2
  | .checksumMismatch => 3
  | .transportError _ => 4
  | .illegalOp => 5
  | .badCommand => 6
  | .messageIncomplete => 7
  | .cmdIdRange => 8

/-- The ten-bit word with only bit `n` set. -/
def stickyBit (n : Nat) : BitVec 10 := 1 <<< n

/-- The per-kind effect on `RAWV` (R229): `PayloadOverflow` clears it. -/
def rawvAfter : ErrKind → Bool → Bool
  | .payloadOverflow, _ => false
  | _, rawv => rawv

/-- The per-kind effect on `XERR` (R229): `TransportError` stores the sink's word. -/
def xerrAfter : ErrKind → Word → Word
  | .transportError w, _ => w
  | _, xerr => xerr

/-- `raise E` (R224): `LASTERR <- n`, `ERRS[n] <- 1`, the per-kind effect of R229; "the operation ends. That is all." -/
def State.raise (s : State) (e : ErrKind) : State :=
  { s with
    lasterr := BitVec.ofNat 8 (errNumber e)
    errs := s.errs ||| stickyBit (errNumber e)
    errsEver := s.errsEver ||| stickyBit (errNumber e)
    rawv := rawvAfter e s.rawv
    xerr := xerrAfter e s.xerr }

/-- The end of an operation that succeeds: `LASTERR <- 0` (R28, R220). -/
def State.succeed (s : State) : State := { s with lasterr := 0 }

/-- What a refused access leaves in the block: `ERRS[9] <- 1` and nothing else (R55). -/
def State.recordBusFault (s : State) : State :=
  { s with errs := s.errs ||| stickyBit 9, errsEver := s.errsEver ||| stickyBit 9 }

/-- The host receives the response to its access (R50). -/
def State.respond (s : State) (r : BusResp) : State := { s with resps := s.resps ++ [r] }

/-- The sink's answer to the next submission: the environment's where the state holds one, else free (R60, R61; log 2). -/
def State.nextAnswer (s : State) : SinkAnswer :=
  match s.answers with
  | a :: _ => a
  | [] => Config.sinkAnswer s.draws

/-- The answer of `nextAnswer` is used up. -/
def State.answerTaken (s : State) : State :=
  match s.answers with
  | _ :: as => { s with answers := as }
  | [] => { s with draws := s.draws + 1 }

/-- One submission: "the event is appended to `OUT`" with the sink's answer (R60, R61). -/
def State.submit (s : State) (event : SinkAnswer → OutEvent) : State :=
  { s.answerTaken with out := s.out ++ [event s.nextAnswer] }

/-- After a submission answered `a` (R156, R176): `LASTERR <- 0`, or `XERR <- w ; raise TransportError`. -/
def State.concludeSubmit (s : State) (a : SinkAnswer) : State :=
  match a with
  | .ok => s.succeed
  | .err w => s.raise (.transportError w)

/-- Submit one frame, then complete according to the sink's answer. It is never retried (R230). -/
def State.submitAndConclude (s : State) (event : SinkAnswer → OutEvent) : State :=
  (s.submit event).concludeSubmit s.nextAnswer

/-- The reset input (R250): every register at its reset value; the earlier history is kept in the ghost `past` (R252), and
so are `errsEver` and what is the host's and the sinks' own. -/
def State.resetBlock (s : State) : State :=
  { State.reset with
    errsEver := s.errsEver
    past := s.past ++ s.out
    pending := s.pending
    answers := s.answers
    draws := s.draws
    resps := s.resps }

end Sys2Proof.Machine
end

