-- ==== Sys2Proof/Machine/Operands.lean ====
section
/-! DEFINITION. Operands: the halves of `VAL`, the big-endian byte forms of 00_scope.md R11, and the Message (R117). The
immediate of a format I operation is taken as it is (R72), so it needs no operation. -/

namespace Sys2Proof.Machine

/-- `VALL = VAL[31:0]` (R21). -/
def valLow (s : State) : Word := s.val.extractLsb' 0 32

/-- `VALH = VAL[63:32]` (R21). -/
def valHigh (s : State) : Word := s.val.extractLsb' 32 32

/-- A write of `VALL` replaces that half and leaves the other (R21, R56 b). -/
def State.writeValLow (s : State) (w : Word) : State := { s with val := valHigh s ++ w }

/-- A write of `VALH` replaces that half and leaves the other (R21, R56 b). -/
def State.writeValHigh (s : State) (w : Word) : State := { s with val := w ++ valLow s }

/-- A write of `RAW`: `RAW <- w ; RAWV <- 1`, nothing else (R118). -/
def State.writeRaw (s : State) (w : Word) : State := { s with raw := w, rawv := true }

/-- `be32`: the four bytes of a payload, most significant first (R11, R153). -/
def be32 (u : Word) : List Byte :=
  [u.extractLsb' 24 8, u.extractLsb' 16 8, u.extractLsb' 8 8, u.extractLsb' 0 8]

/-- `be16`: the two bytes of a checksum, high byte first (R11, R154). -/
def be16 (c : Half) : List Byte := [c.extractLsb' 8 8, c.extractLsb' 0 8]

/-- doc00's Message, "{ command: CommandType, target_id: Option<byte>, raw_payload: i32 }" (R117); the command is named by
its id (R113). -/
structure Message where
  command : Byte
  targetId : Option Byte
  rawPayload : Int
deriving DecidableEq, Repr

/-- The block's current Message; it exists when `CMDV = 1` and `RAWV = 1` (R117). -/
def State.message (s : State) : Option Message :=
  if s.cmdv && s.rawv then
    some ⟨s.cmd, if s.tidv then some s.tid else none, s.raw.toInt⟩
  else none

end Sys2Proof.Machine
end

