-- ==== Sys2Proof/Machine/Flags.lean ====
section
/-! DEFINITION. The valid flags and the status words: 10_state.md R27, R29, R31. There are no arithmetic flags (R27). -/

namespace Sys2Proof.Machine

/-- A Message exists: neither field an encoder needs is missing (R117, R119, R226). -/
def State.messageReady (s : State) : Bool := s.cmdv && s.rawv

/-- `STATUS` (R31): bits 2:0 `RAWV`, `TIDV`, `CMDV`; 15:8 `LASTERR`; the rest zero. -/
def statusWord (s : State) : Word :=
  (0 : Half) ++ s.lasterr ++ (0 : BitVec 5) ++ BitVec.ofBool s.rawv ++ BitVec.ofBool s.tidv ++ BitVec.ofBool s.cmdv

/-- The `LASTERR` field of a `STATUS` word (R31). -/
def statusLasterr (w : Word) : Byte := w.extractLsb' 8 8

/-- `ERRS` as the bus reads it: bits 31:10 zero (R29). -/
def errsWord (s : State) : Word := s.errs.setWidth 32

end Sys2Proof.Machine
end

