-- ==== Sys2Proof/Machine/System.lean ====
section
/-! DEFINITION. `ERR.CLR` (45_system_ops.md R190) and the pseudo-operation "illegal" (30_encoding.md R74). -/

namespace Sys2Proof.Machine

open Host (Outcome)

/-- `ERR.CLR`: `ERRS <- 0 ; XERR <- 0 ; LASTERR <- 0` (R190). The ghost `errsEver` is not cleared (D24). -/
def execErrClr (s : State) : Outcome State Fault Refusal :=
  .next { s with errs := 0, xerr := 0 }.succeed

/-- What a write of an illegal word to `OP` runs (R74, R225). -/
def State.illegalOp (s : State) : State := s.raise .illegalOp

end Sys2Proof.Machine
end

