-- ==== Sys2Proof/Machine/Bus.lean ====
section
/-! DEFINITION. The register space (10_state.md R33, 20_memory.md R50 to R56) and the taking of the host's next move
(R57), up to the operation that a write of `OP` starts. -/

namespace Sys2Proof.Machine

open Host (Outcome)

/-- The registers of the map (R33). -/
inductive Reg where
  | op
  | status
  | errs
  | xerr
  | crc
  | cmd
  | tid
  | raw
  | vall
  | valh
deriving DecidableEq, Repr

/-- The register at a byte offset (R33); none at `0x28` to `0x3C` (R34) nor at an offset that starts no word. -/
def regAt (off : Offset) : Option Reg :=
  match off.toNat with
  | 0x00 => some .op
  | 0x04 => some .status
  | 0x08 => some .errs
  | 0x0C => some .xerr
  | 0x10 => some .crc
  | 0x14 => some .cmd
  | 0x18 => some .tid
  | 0x1C => some .raw
  | 0x20 => some .vall
  | 0x24 => some .valh
  | _ => none

/-- The register an access of `size` bytes reaches: the size must be 4 (R52) and the offset aligned (R53). -/
def accessedReg (off : Offset) (size : Nat) : Option Reg :=
  if size = 4 ∧ off.toNat % 4 = 0 then regAt off else none

/-- What a register reads as, bit for bit, narrower ones zero-extended (R23 to R25, R29, R31); `OP` is write-only (R32). -/
def readReg (s : State) : Reg → Option Word
  | .op => none
  | .status => some (statusWord s)
  | .errs => some (errsWord s)
  | .xerr => some s.xerr
  | .crc => some (s.crc.setWidth 32)
  | .cmd => some (s.cmd.setWidth 32)
  | .tid => some (s.tid.setWidth 32)
  | .raw => some s.raw
  | .vall => some (valLow s)
  | .valh => some (valHigh s)

/-- A bus read: its data, or none where the access is refused (R54). It changes no state (R56 a). -/
def busRead (s : State) (off : Offset) (size : Nat) : Option Word := (accessedReg off size).bind (readReg s)

/-- What a bus write does (R54, R56): refused, a register stored, or an operation word for `OP`. -/
inductive WriteEffect where
  | refused
  | stored (t : State)
  | operation
deriving DecidableEq, Repr

/-- A bus write (R54, R56 b to d). -/
def busWrite (s : State) (off : Offset) (size : Nat) (w : Word) : WriteEffect :=
  match accessedReg off size with
  | some .op => .operation
  | some .raw => .stored (s.writeRaw w)
  | some .vall => .stored (s.writeValLow w)
  | some .valh => .stored (s.writeValHigh w)
  | _ => .refused

/-- A refused access: the sticky bit and the response `BusFault`, no data (R55). -/
def State.refuseAccess (s : State) : State := s.recordBusFault.respond .busFault

/-- What the block has once it has taken the host's next move. -/
inductive Fetched where
  /-- nothing is pending: the block waits (R253) -/
  | idle
  /-- the move is served and is no operation of the table -/
  | served (t : State)
  /-- an operation word has been decoded and is to be executed from `t` -/
  | run (i : Instr) (t : State)
deriving DecidableEq, Repr

/-- An operation word, "consumed at the moment it is written to `OP`" (R59): decoded, or the pseudo-operation "illegal". -/
def takeOpWord (w : Word) (s : State) : Fetched :=
  match decode w with
  | .ok i => .run i s
  | .error _ => .served (s.illegalOp.respond .done)

/-- Serve one host move, as far as it is no operation of the table (R50, R250). -/
def serveMove (m : HostMove) (s : State) : Fetched :=
  match m with
  | .reset => .served s.resetBlock
  | .read off size =>
    match busRead s off size with
    | some d => .served (s.respond (.data d))
    | none => .served s.refuseAccess
  | .write off size w =>
    match busWrite s off size w with
    | .refused => .served s.refuseAccess
    | .stored t => .served (t.respond .done)
    | .operation => takeOpWord w s

/-- Take the oldest pending move (R57). -/
def fetch (s : State) : Fetched :=
  match s.pending with
  | [] => .idle
  | m :: rest => serveMove m { s with pending := rest }

/-- The write of `OP` completes when its operation has (R57): the host is answered `done`. -/
def completeOpWrite : Outcome State Fault Refusal → Outcome State Fault Refusal
  | .next t => .next (t.respond .done)
  | .fault r => .fault r
  | .refused r => .refused r

end Sys2Proof.Machine
end

