-- ==== Sys2Proof/Machine/Can.lean ====
section
/-! DEFINITION. The CAN frame encoder: 44_can_frame.md, and the attributes of a submitted CAN frame (20_memory.md R61). -/

namespace Sys2Proof.Machine

open Host (Outcome)

/-- `can_id(cmd, tid) = zext_29(cmd ++ tid)` (R171): no offset on the command id. -/
def canId (cmd tid : Byte) : BitVec 29 := (cmd ++ tid).setWidth 29

/-- Drop leading zero bytes, keeping at least one byte (R172). -/
def trimZeros : List Byte → List Byte
  | b :: c :: rest => if b = 0 then trimZeros (c :: rest) else b :: c :: rest
  | bytes => bytes

/-- `can_payload(raw)`: the big-endian bytes with leading zero bytes trimmed (R172, R174). -/
def canPayload (raw : Word) : List Byte := trimZeros (be32 raw)

/-- A CAN frame as the port carries it (R61). -/
structure CanFrame where
  /-- the identifier in its 32-bit container, bits 31:29 zero -/
  container : Word
  /-- `IDE`: extended identifier -/
  ide : Bool
  /-- `RTR`: remote request -/
  rtr : Bool
  /-- `DLC`: data-length code -/
  dlc : Nat
  data : List Byte
deriving DecidableEq, Repr

/-- The frame that goes with an identifier and data: "three attributes that never vary" (R61). -/
def canFrame (id : BitVec 29) (data : List Byte) : CanFrame where
  container := id.setWidth 32
  ide := true
  rtr := false
  dlc := data.length
  data := data

/-- `ENC.CAN` (R176): the checks in R231's order, then the frame is submitted. `CRC` is not touched. -/
def execEncCan (s : State) : Outcome State Fault Refusal :=
  .next <|
    if !s.messageReady then s.raise .messageIncomplete
    else if !s.tidv then s.raise .missingTargetId
    else s.submitAndConclude (.can (canId s.cmd s.tid) (canPayload s.raw))

end Sys2Proof.Machine
end

