-- ==== Sys2Proof/Machine/Command.lean ====
section
/-! DEFINITION. The command table lookups and the operations that build a Message's command and target id:
41_command_table_and_message.md. Each operation that reads `CMDTAB` is written over a table as an argument (R111: "A model
takes `CMDTAB` as an argument") and the instruction takes the block's own table. -/

namespace Sys2Proof.Machine

open Host (Outcome)

/-- `imm8` is the id of a row of the table (R114). -/
def hasCommand (tab : CmdTab) (id : Byte) : Bool := tab.rows.any (fun r => r.id == id)

/-- `scale_for(CMD)`: the scale of the one row whose id it is (R113). An id without a row is never selected (R39); its
scale is free (log 15). -/
def scaleFor (tab : CmdTab) (id : Byte) : F64 :=
  match tab.rows.find? (fun r => r.id == id) with
  | some r => r.scale
  | none => Config.scaleOfNoRow id

/-- `CMD.SEL` over a table (R114): select the command, or `raise BadCommand` with `CMD` and `CMDV` unchanged. -/
def State.selectCommand (s : State) (tab : CmdTab) (imm8 : Byte) : State :=
  if hasCommand tab imm8 then { s with cmd := imm8, cmdv := true }.succeed else s.raise .badCommand

/-- `CMD.SEL imm8` (R114). -/
def execCmdSel (imm8 : Byte) (s : State) : Outcome State Fault Refusal :=
  .next (s.selectCommand Config.cmdtab imm8)

/-- `TID.SET imm8`: `TID <- imm8 ; TIDV <- 1 ; LASTERR <- 0` (R115). -/
def execTidSet (imm8 : Byte) (s : State) : Outcome State Fault Refusal :=
  .next { s with tid := imm8, tidv := true }.succeed

/-- `TID.CLR`: `TIDV <- 0 ; LASTERR <- 0`; `TID` keeps its bits (R116). -/
def execTidClr (s : State) : Outcome State Fault Refusal :=
  .next { s with tidv := false }.succeed

end Sys2Proof.Machine
end

