-- ==== Sys2Proof/Machine/Scaler.lean ====
section
/-! DEFINITION. The scaler: 42_scaler.md, in exact rational arithmetic. -/

namespace Sys2Proof.Machine

open Host (Outcome)

/-- The power `2^k` as a rational, for any integer `k`. -/
def pow2 (k : Int) : Rat := if 0 ≤ k then ((2 ^ k.toNat : Nat) : Rat) else mkRat 1 (2 ^ (-k).toNat)

/-- `|q|`. -/
def absRat (q : Rat) : Rat := if q < 0 then -q else q

/-- The meaning of a 64-bit pattern (R132): `Fin(q)` with an exact rational, `Inf` or `NaN`. -/
inductive Val64 where
  | fin (q : Rat)
  | inf
  | nan
deriving DecidableEq, Repr

/-- The exponent field `e = u[62:52]` (R132). -/
def expField (u : F64) : Nat := (u.extractLsb' 52 11).toNat

/-- The fraction field `f = u[51:0]` (R132). -/
def fracField (u : F64) : Nat := (u.extractLsb' 0 52).toNat

/-- The magnitude of a finite pattern: `f * 2^(-1074)` when `e = 0` (zero, subnormal), else `(2^52 + f) * 2^(e - 1075)`
(R132). -/
def magnitude (u : F64) : Rat :=
  if expField u = 0 then (fracField u : Rat) * pow2 (-1074)
  else ((2 ^ 52 + fracField u : Nat) : Rat) * pow2 ((expField u : Int) - 1075)

/-- `val64(u)` (R132); both zeros are the rational 0. -/
def val64 (u : F64) : Val64 :=
  if expField u = 2047 then
    if fracField u = 0 then .inf else .nan
  else .fin (if u.getLsbD 63 then -magnitude u else magnitude u)

/-- `floor(log2 a)` for `a > 0`: the two bit lengths determine it up to one, and the comparison settles it. -/
def floorLog2 (a : Rat) : Int :=
  let e : Int := (a.num.natAbs.log2 : Int) - (a.den.log2 : Int)
  if pow2 e ≤ a then e else e - 1

/-- `rne_int(q)`: the nearest integer, ties to the even one (R13). -/
def rneInt (q : Rat) : Int :=
  let fl := q.floor
  let d := q - (fl : Rat)
  if mkRat 1 2 < d ∨ (d = mkRat 1 2 ∧ fl % 2 = 1) then fl + 1 else fl

/-- `rhaz(q) = sign(q) * floor(|q| + 1/2)`: the nearest integer, ties away from zero (R13). -/
def rhaz (q : Rat) : Int :=
  let n := (absRat q + mkRat 1 2).floor
  if q < 0 then -n else n

/-- The spacing `g = 2^(e - 52)` of binary64 values near `q`, its exponent clamped at the subnormal range (R133). -/
def spacing (q : Rat) : Rat := pow2 (max (floorLog2 (absRat q)) (-1022) - 52)

/-- `RNE64(q)`: the nearest binary64 value, ties to even; `none` is `Overflowed` (R133). -/
def rne64 (q : Rat) : Option Rat :=
  if q = 0 then some 0
  else
    let r := (rneInt (absRat q / spacing q) : Rat) * spacing q
    if pow2 1024 ≤ r then none else some (if q < 0 then -r else r)

/-- `-2^31 <= n <= 2^31 - 1`, the signed 32-bit range (R130, R134). -/
abbrev inI32 (n : Int) : Prop := -2147483648 ≤ n ∧ n ≤ 2147483647

/-- The last two lines of `scale_round` (R134): the binary64 product to an integer, ties away from zero, range-checked;
`none` is `Overflow`. -/
def roundToI32 (p : Rat) : Option Int := if inI32 (rhaz p) then some (rhaz p) else none

/-- `scale_round(u_val, u_scale)` (R134): `some n` is `Ok(n)`, `none` is `Overflow`. The product is rounded to binary64,
then to an integer; any NaN or infinity is `Overflow` (R135). DEDUCED (log 23): R141's "Subnormal values give `0`" fails
under this rule for a scale above `2^1021` in magnitude, and the model follows this rule. -/
def scaleRound (uVal uScale : F64) : Option Int :=
  match val64 uVal, val64 uScale with
  | .fin v, .fin sc => (rne64 (v * sc)).bind roundToI32
  | _, _ => none

/-- `SCALE` over a table (R136): `MessageIncomplete` without a command; else the payload, or `PayloadOverflow` with `RAW`
unchanged and `RAWV <- 0` (R138). No clamped value is ever stored (R139). -/
def State.scalePayload (s : State) (tab : CmdTab) : State :=
  if !s.cmdv then s.raise .messageIncomplete
  else
    match scaleRound s.val (scaleFor tab s.cmd) with
    | some n => { s with raw := BitVec.ofInt 32 n, rawv := true }.succeed
    | none => s.raise .payloadOverflow

/-- `SCALE` (R136). -/
def execScale (s : State) : Outcome State Fault Refusal := .next (s.scalePayload Config.cmdtab)

end Sys2Proof.Machine
end

