-- ==== Sys2Proof/Machine/Uart.lean ====
section
/-! DEFINITION. The UART frame encoder: 43_uart_frame.md. -/

namespace Sys2Proof.Machine

open Host (Outcome)

/-- `PRE0`, `PRE1`: frame bytes 1 and 2 (R7, R151). -/
def uartPreamble : List Byte := [0x02, 0x05]

/-- `CMDOFF`, added to the command id (R7, R152). -/
def uartCmdOffset : Byte := 0x05

/-- `TERM`: frame byte 10 (R7, R155). -/
def uartTerminator : Byte := 0x03

/-- The largest command id whose offset form fits in byte 3: `0xFA` (R152). -/
def uartMaxCommand : Byte := 0xFA

/-- Bytes 3 to 7, the ones the checksum covers (R154, R155). -/
def uartBody (cmd : Byte) (raw : Word) : List Byte := (cmd + uartCmdOffset) :: be32 raw

/-- `uart_frame(cmd, raw)`, for `cmd <= 0xFA` (R155). -/
def uartFrame (cmd : Byte) (raw : Word) : List Byte :=
  uartPreamble ++ uartBody cmd raw ++ be16 (crc16 (uartBody cmd raw)) ++ [uartTerminator]

/-- `uart_frame_valid(G)` (R159), for claims only: the block has no decoder. -/
def uartFrameValid (g : List Byte) : Bool :=
  g.length == 10 && g.take 2 == uartPreamble && g.getLast? == some uartTerminator &&
    be16 (crc16 ((g.drop 2).take 5)) == (g.drop 7).take 2

/-- `ENC.UART` (R156): the checks in R231's order, then `CRC` takes the frame's checksum (R157) and the frame is submitted.
`TID` and `TIDV` are not read. -/
def execEncUart (s : State) : Outcome State Fault Refusal :=
  .next <|
    if !s.messageReady then s.raise .messageIncomplete
    else if uartMaxCommand < s.cmd then s.raise .cmdIdRange
    else { s with crc := crc16 (uartBody s.cmd s.raw) }.submitAndConclude (.uart (uartFrame s.cmd s.raw))

end Sys2Proof.Machine
end

