-- ==== Sys2Proof/Machine/Dispatch.lean ====
section
/-! DEFINITION. One arm per operation of 30_encoding.md R73. -/

namespace Sys2Proof.Machine

open Host (Outcome)

/-- The operation an instruction names, performed on the block. -/
def exec (i : Instr) (s : State) : Host.Outcome State Fault Refusal :=
  match i with
  | .crcInit => Sys2Proof.Machine.execCrcInit s
  | .crcByte imm8 => Sys2Proof.Machine.execCrcByte imm8 s
  | .cmdSel imm8 => Sys2Proof.Machine.execCmdSel imm8 s
  | .tidSet imm8 => Sys2Proof.Machine.execTidSet imm8 s
  | .tidClr => Sys2Proof.Machine.execTidClr s
  | .scale => Sys2Proof.Machine.execScale s
  | .encUart => Sys2Proof.Machine.execEncUart s
  | .encCan => Sys2Proof.Machine.execEncCan s
  | .errClr => Sys2Proof.Machine.execErrClr s

end Sys2Proof.Machine
end

