-- ==== Sys2Proof/Machine/Step.lean ====
section
/-! DEFINITION. One step serves one host move whole (20_memory.md R57); with nothing pending the block waits. -/

namespace Sys2Proof.Machine

/-- One step of the block: the oldest pending move, with the operation it starts and the sink's answer (R57). -/
def step (s : State) : Host.Outcome State Fault Refusal :=
  match fetch s with
  | .idle => .next s
  | .served t => .next t
  | .run i t => completeOpWrite (exec i t)

/-- The state with the operation word `w` as the next thing the host writes to `OP` (log 4). -/
def State.withFetchWord (s : State) (nbits w : Nat) : State :=
  { s with pending := .write 0 4 (BitVec.ofNat 32 (w % 2 ^ nbits)) :: s.pending }

end Sys2Proof.Machine
end

