-- ==== Sys2Proof/Machine/HostSoftware.lean ====
section
/-! DEFINITION. The host software at the block's boundary: the pseudo-operations of 30_encoding.md R78 and the Motor adapter
and Drive Mixer of 46_host_software_boundary.md. None of it is part of `step`: it issues moves and reads responses. -/

namespace Sys2Proof.Machine

open Host (Outcome)

/-- `op MNEMONIC`: `wr OP, word` (R77). -/
def opMove (i : Instr) : HostMove := .write 0x00 4 (encode i)

/-- `rd STATUS` (R77). -/
def readStatusMove : HostMove := .read 0x04 4

/-- `SETVAL v` (R78). -/
def setValMoves (v : F64) : List HostMove :=
  [.write 0x20 4 (v.extractLsb' 0 32), .write 0x24 4 (v.extractLsb' 32 32)]

/-- `SETRAW s` (R78). -/
def setRawMoves (n : Int) : List HostMove := [.write 0x1C 4 (BitVec.ofInt 32 n)]

/-- `MSG.VAL c, v` (R78). -/
def msgValMoves (c : Byte) (v : F64) : List HostMove := opMove (.cmdSel c) :: setValMoves v ++ [opMove .scale]

/-- `UART.SEND c, v` (R78). -/
def uartSendMoves (c : Byte) (v : F64) : List HostMove := msgValMoves c v ++ [opMove .encUart]

/-- `CAN.SEND c, t, v` (R78). -/
def canSendMoves (c t : Byte) (v : F64) : List HostMove :=
  opMove (.tidSet t) :: msgValMoves c v ++ [opMove .encCan]

/-- `CRC16 b1, ..., bn` (R78). -/
def crc16Moves (bytes : List Byte) : List HostMove :=
  opMove .crcInit :: bytes.map (fun b => opMove (.crcByte b)) ++ [.read 0x10 4]

/-- Issue a sequence of moves, each served before the next is issued and before anything already pending: the sequence is
mutually exclusive per block, as R258 asks of the host. -/
def issue : List HostMove → State → Outcome State Fault Refusal
  | [], s => .next s
  | m :: ms, s =>
    match step { s with pending := m :: s.pending } with
    | .next t => issue ms t
    | .fault r => .fault r
    | .refused r => .refused r

/-- The `LASTERR` field of the `STATUS` word the host has just read; none if its last response was no data. -/
def lasterrRead (s : State) : Option Byte :=
  match s.resps.getLast? with
  | some (.data w) => some (statusLasterr w)
  | _ => none

/-- The second half of a Motor call (R197): encode, submit, read `STATUS`. -/
def motorEncode (s : State) : Outcome (State × Option Byte) Fault Refusal :=
  match issue [opMove .encCan, readStatusMove] s with
  | .next t => .next (t, lasterrRead t)
  | .fault r => .fault r
  | .refused r => .refused r

/-- `Motor{id: t}.set_<c>(v)` (R197): build the Message, stop if `STATUS` shows an error, else encode. The answer is the
`LASTERR` read last; `some 0` is `Ok`. -/
def motorCall (c t : Byte) (v : F64) (s : State) : Outcome (State × Option Byte) Fault Refusal :=
  match issue (opMove (.tidSet t) :: msgValMoves c v ++ [readStatusMove]) s with
  | .next t => if lasterrRead t = some 0 then motorEncode t else .next (t, lasterrRead t)
  | .fault r => .fault r
  | .refused r => .refused r

/-- The side mask of a motor (R195). -/
inductive Side where
  | left
  | right
deriving DecidableEq, Repr

/-- A MotorPair config entry (R195). -/
structure MotorPair where
  id1 : Byte
  id2 : Byte
  mask1 : Side
  mask2 : Side
deriving DecidableEq, Repr

/-- DriveConfig (R195). -/
structure DriveConfig where
  speedMultiplier : F64
  pairs : List MotorPair
deriving DecidableEq, Repr

/-- The id of `SetRpm` (R111 condition 3), the command the mixer issues (R199, R204). -/
def rpmCommand : Byte := 0x03

/-- The binary64 pattern of a sign and a magnitude that is a binary64 value (R132). -/
def patternOf (negative : Bool) (a : Rat) : F64 :=
  let m := (a / spacing a).floor.toNat
  let e : Nat := if m < 2 ^ 52 then 0 else (floorLog2 a + 1023).toNat
  BitVec.ofBool negative ++ BitVec.ofNat 11 e ++ BitVec.ofNat 52 m

/-- The pattern of an infinity (R132). -/
def infPattern (negative : Bool) : F64 := BitVec.ofBool negative ++ (2047 : BitVec 11) ++ (0 : BitVec 52)

/-- The pattern of a NaN (R132): the fraction is one of the `2^52 - 1` that are not zero. -/
def nanPattern (b : NanBits) : F64 :=
  BitVec.ofBool b.negative ++ (2047 : BitVec 11) ++ BitVec.ofNat 52 (b.payload % (2 ^ 52 - 1) + 1)

/-- An infinite factor times a finite one: an infinity, or a NaN if the finite one is zero (R201; log 16). -/
def infTimes (u v : F64) (finite : Rat) (negative : Bool) : F64 :=
  if finite = 0 then nanPattern (Config.hostNan u v) else infPattern negative

/-- The host's `f64` multiply, "the IEEE 754 round-to-nearest-even product" (R201): a finite product rounded, an infinity
where it overflows (R133), each with the product of the signs; which NaN an invalid product is stays free (log 16). -/
def f64Mul (u v : F64) : F64 :=
  let negative := u.getLsbD 63 ^^ v.getLsbD 63
  match val64 u, val64 v with
  | .fin a, .fin b =>
    match rne64 (a * b) with
    | some p => patternOf negative (absRat p)
    | none => infPattern negative
  | .inf, .fin b => infTimes u v b negative
  | .fin a, .inf => infTimes u v a negative
  | .inf, .inf => infPattern negative
  | .nan, _ => nanPattern (Config.hostNan u v)
  | _, .nan => nanPattern (Config.hostNan u v)

/-- Every motor id with its own mask, in configuration order, `id1` before `id2` (R200, R203; log 17). -/
def mixerTargets (cfg : DriveConfig) : List (Byte × Side) :=
  cfg.pairs.flatMap fun p => [(p.id1, p.mask1), (p.id2, p.mask2)]

/-- The mixer's pure mapping (R199): each id's selected velocity times the speed multiplier. -/
def mixerCalls (cfg : DriveConfig) (left right : F64) : List (Byte × F64) :=
  (mixerTargets cfg).map fun t =>
    (t.1, f64Mul (match t.2 with | .left => left | .right => right) cfg.speedMultiplier)

/-- Issue every call and collect the failures; a failure never stops the loop (R202, R205). DESIGN CHOICE (log 22): every
failing call is reported, in the order of the calls, so an id listed twice is reported once per failing call. -/
def issueCalls (c : Byte) : List (Byte × F64) → State → Outcome (State × List (Byte × Option Byte)) Fault Refusal
  | [], s => .next (s, [])
  | (id, v) :: rest, s =>
    match motorCall c id v s with
    | .next (t, answer) =>
      match issueCalls c rest t with
      | .next (t', failed) => .next (t', if answer = some 0 then failed else (id, answer) :: failed)
      | .fault r => .fault r
      | .refused r => .refused r
    | .fault r => .fault r
    | .refused r => .refused r

/-- One mixer tick (R205), with `SetRpm` as the examples do (R204). -/
def mixerTick (cfg : DriveConfig) (left right : F64) (s : State) :
    Outcome (State × List (Byte × Option Byte)) Fault Refusal :=
  issueCalls rpmCommand (mixerCalls cfg left right) s

end Sys2Proof.Machine
end

