-- ==== Sys2Proof/Safety.lean ====
section
/-! DEFINITION. The invariant of the block and what a safe run is: 10_state.md R39, 60_exceptions.md R237. -/

namespace Sys2Proof.Machine

/-- The sink's answer recorded in an event. -/
def OutEvent.answer : OutEvent → SinkAnswer
  | .uart _ a => a
  | .can _ _ a => a

/-- What a submitted frame looks like: a UART frame is valid (R159), a CAN identifier is below `2^16`, its data are 1 to 4
bytes and start with a non-zero byte unless there is one (R177). -/
def OutEvent.wellFormed : OutEvent → Bool
  | .uart frame _ => uartFrameValid frame
  | .can id data _ =>
    decide (id.toNat < 2 ^ 16) && decide (1 ≤ data.length) && decide (data.length ≤ 4) &&
      (data.length == 1 || data.head? != some 0)

/-- The completion codes that can stand in `LASTERR`: 0 and the kinds of R220 but the reserved 3. -/
def completionCodes : List Byte := [0, 1, 2, 4, 5, 6, 7, 8]

/-- "The id of exactly one row" (R39). -/
abbrev isSelectable (tab : CmdTab) (id : Byte) : Prop := tab.rows.countP (fun r => r.id == id) = 1

/-- What every state has that a run from reset reaches. -/
structure State.Inv (s : State) : Prop where
  /-- R39 -/
  selected : s.cmdv = true → isSelectable Config.cmdtab s.cmd
  /-- `ERRS` bit 0 always reads 0 (R29) -/
  bitZeroClear : s.errs.getLsbD 0 = false
  /-- `ERRS` bit 3 always reads 0 (R29, R223) -/
  bitThreeClear : s.errs.getLsbD 3 = false
  /-- codes 3 and 9 to 255 never appear (R220, R223) -/
  codeKnown : s.lasterr ∈ completionCodes
  /-- a code in `LASTERR` has its sticky bit (R224) -/
  codeRecorded : s.lasterr ≠ 0 → s.errs.getLsbD s.lasterr.toNat = true
  /-- after `TransportError`, `XERR` is the word the latest submission was answered (R30, R230) -/
  transportWord : s.lasterr = 4 → ∃ e, s.out.getLast? = some e ∧ e.answer = .err s.xerr
  /-- the ghost record holds all of `ERRS` (D24) -/
  everRecorded : s.errs &&& s.errsEver = s.errs
  /-- every submitted frame is well formed (R159, R177) -/
  framesWellFormed : ∀ e ∈ s.out, e.wellFormed = true

/-- The error record's bits of the "programming error" kinds that "a correct host never provokes" (R237): 2, 5, 6, 7, 8 and
the bus's 9. -/
def programmingErrors : BitVec 10 := 0x3E4

/-- A safe run so far, in doc00's stricter reading (93 U3): no programming error has ever been recorded. -/
abbrev State.NoProgrammingError (s : State) : Prop := s.errsEver &&& programmingErrors = 0

end Sys2Proof.Machine
end

