-- ==== Sys2Proof/Certificates/Slice0/Obligations.lean ====
section
/-! DEFINITION. The statements about the block, one per rule or group of rules of spec/. In each, `errsEver` is the model's
ghost (log 9), `pending`, `answers`, `draws`, `resps` are the model's own fields (logs 2, 3, 6): what a statement says of
them is the model's, not the rule's. -/

open Sys2Proof Sys2Proof.Machine

/-! ## Operation words (30_encoding.md) -/

/-- No bit of an instruction is lost in its word (R73, R75). -/
def Obligations.DecodeOfEncodeIsIdentity : Prop := ∀ i : Instr, decode (encode i) = .ok i

/-- A word that decodes is the encoding of what it decodes to: no bit of a word is ignored (R73, R75). -/
def Obligations.EncodeOfDecodedWordIsTheWord : Prop :=
  ∀ (w : Word) (i : Instr), decode w = .ok i → encode i = w

/-- R73, R75: no word selects two rows, a word decodes exactly when it selects one, and then to an instruction of that row. -/
def Obligations.DecodesExactlyWhenOneRowSelected : Prop :=
  ∀ w : Word,
    opRows.countP (fun r => r.selects w) ≤ 1 ∧
    (opRows.countP (fun r => r.selects w) = 1 ↔ ∃ i, decode w = .ok i ∧ (opRow i).selects w = true) ∧
    (opRows.countP (fun r => r.selects w) = 0 ↔ ∃ e, decode w = .error e)

/-- R74: the illegal words are those three kinds, and writing one records `IllegalOp` and changes nothing else (R225). -/
def Obligations.IllegalWordRecordsIllegalOpOnly : Prop :=
  (∀ w : Word, (∃ e, decode w = .error e) ↔
    (w.toNat / 65536 ≠ 0 ∨
     w.toNat % 256 ∉ [0x01, 0x02, 0x10, 0x11, 0x12, 0x20, 0x30, 0x31, 0x40] ∨
     (w.toNat % 256 ∈ [0x01, 0x12, 0x20, 0x30, 0x31, 0x40] ∧ w.toNat / 256 % 256 ≠ 0))) ∧
  (∀ (s : State) (rest : List HostMove) (w : Word) (e : Illegal),
    s.pending = .write 0x00 4 w :: rest → decode w = .error e →
    step s = .next { s with
      pending := rest, resps := s.resps ++ [.done]
      lasterr := 5, errs := s.errs ||| 0x020, errsEver := s.errsEver ||| 0x020 }) ∧
  (∃ e, decode 0x00000000 = .error e)

/-- R73's table and R77's examples, as words. -/
def Obligations.SpecWordsDecodeToTheirInstructions : Prop :=
  decode 0x00000001 = .ok .crcInit ∧ decode 0x00003102 = .ok (.crcByte 0x31) ∧
  decode 0x00000310 = .ok (.cmdSel 0x03) ∧ decode 0x00000C11 = .ok (.tidSet 0x0C) ∧
  decode 0x00000012 = .ok .tidClr ∧ decode 0x00000020 = .ok .scale ∧ decode 0x00000030 = .ok .encUart ∧
  decode 0x00000031 = .ok .encCan ∧ decode 0x00000040 = .ok .errClr

/-! ## The step (20_memory.md R57) -/

/-- R57: the oldest pending move is a write of a legal word to `OP`: the step is `exec` of the decoded instruction at the
state without that move, and the host is then answered `done`. -/
def Obligations.StepExecutesTheDecodedInstruction : Prop :=
  ∀ (s : State) (rest : List HostMove) (w : Word) (i : Instr),
    s.pending = .write 0x00 4 w :: rest → decode w = .ok i →
    step s =
      match exec i { s with pending := rest } with
      | .next t => .next { t with resps := t.resps ++ [.done] }
      | .fault r => .fault r
      | .refused r => .refused r

/-- "the block is never stuck and never halts" (R16): in every state a step answers a next state. -/
def Obligations.StepAlwaysAnswersANextState : Prop := ∀ s : State, ∃ t, step s = .next t

/-- R57: a step serves the oldest move and no other, and answers each access once; with nothing pending the block waits
(R253, log 3). -/
def Obligations.StepServesOneMoveAndAnswersItOnce : Prop :=
  (∀ s : State, s.pending = [] → step s = .next s) ∧
  ∀ (s : State) (m : HostMove) (rest : List HostMove), s.pending = m :: rest →
    ∃ t, step s = .next t ∧ t.pending = rest ∧
      (m = .reset → t.resps = s.resps) ∧ (m ≠ .reset → ∃ r, t.resps = s.resps ++ [r])

/-! ## Bus accesses (20_memory.md) -/

/-- R52 to R55: an access that is not an aligned 4-byte one to a register with that right is answered `BusFault`, sets
`ERRS[9]` and changes nothing else. -/
def Obligations.RefusedAccessSetsOnlyTheBusBit : Prop :=
  ∀ (s : State) (rest : List HostMove) (off : Offset) (size : Nat) (w : Word),
    (s.pending = .read off size :: rest →
      (size ≠ 4 ∨ off.toNat ∉ [0x04, 0x08, 0x0C, 0x10, 0x14, 0x18, 0x1C, 0x20, 0x24]) →
      step s = .next { s with
        pending := rest, resps := s.resps ++ [.busFault]
        errs := s.errs ||| 0x200, errsEver := s.errsEver ||| 0x200 }) ∧
    (s.pending = .write off size w :: rest →
      (size ≠ 4 ∨ off.toNat ∉ [0x00, 0x1C, 0x20, 0x24]) →
      step s = .next { s with
        pending := rest, resps := s.resps ++ [.busFault]
        errs := s.errs ||| 0x200, errsEver := s.errsEver ||| 0x200 })

/-- R33, R56 a: what each readable register reads as; a read changes nothing. -/
def Obligations.ReadAnswersTheRegisterAndChangesNothing : Prop :=
  ∀ (s : State) (rest : List HostMove) (off : Offset) (v : Word),
    s.pending = .read off 4 :: rest →
    (off.toNat, v) ∈
      [(0x04, BitVec.ofNat 32
          (s.cmdv.toNat + 2 * s.tidv.toNat + 4 * s.rawv.toNat + 256 * s.lasterr.toNat)),
       (0x08, BitVec.ofNat 32 s.errs.toNat), (0x0C, s.xerr), (0x10, BitVec.ofNat 32 s.crc.toNat),
       (0x14, BitVec.ofNat 32 s.cmd.toNat), (0x18, BitVec.ofNat 32 s.tid.toNat), (0x1C, s.raw),
       (0x20, BitVec.ofNat 32 (s.val.toNat % 2 ^ 32)), (0x24, BitVec.ofNat 32 (s.val.toNat / 2 ^ 32))] →
    step s = .next { s with pending := rest, resps := s.resps ++ [.data v] }

/-- R118: `RAW <- w ; RAWV <- 1` and nothing else, from every state. -/
def Obligations.WriteOfRawStoresAndValidates : Prop :=
  ∀ (s : State) (rest : List HostMove) (w : Word), s.pending = .write 0x1C 4 w :: rest →
    step s = .next { s with pending := rest, resps := s.resps ++ [.done], raw := w, rawv := true }

/-- R21, R56 b, R256: a write of one half of `VAL` leaves the other; `SETVAL v` leaves `VAL = v`. -/
def Obligations.ValIsWrittenByHalves : Prop :=
  (∀ (s : State) (rest : List HostMove) (w : Word), s.pending = .write 0x20 4 w :: rest →
    step s = .next { s with
      pending := rest, resps := s.resps ++ [.done]
      val := BitVec.ofNat 64 (s.val.toNat / 2 ^ 32 * 2 ^ 32 + w.toNat) }) ∧
  (∀ (s : State) (rest : List HostMove) (w : Word), s.pending = .write 0x24 4 w :: rest →
    step s = .next { s with
      pending := rest, resps := s.resps ++ [.done]
      val := BitVec.ofNat 64 (w.toNat * 2 ^ 32 + s.val.toNat % 2 ^ 32) }) ∧
  (∀ (s : State) (v : F64),
    issue (setValMoves v) s = .next { s with val := v, resps := s.resps ++ [.done, .done] })

/-- R28: a move that is no accepted write to `OP` and no reset leaves `LASTERR`, and submits nothing (R55, R56). -/
def Obligations.OnlyOperationsAndResetTouchLasterrAndOut : Prop :=
  ∀ (s t : State), step s = .next t →
    (∀ w, s.pending.head? ≠ some (.write 0x00 4 w)) → s.pending.head? ≠ some .reset →
    t.lasterr = s.lasterr ∧ t.out = s.out ∧ t.crc = s.crc ∧ t.cmd = s.cmd ∧ t.cmdv = s.cmdv ∧
      t.tid = s.tid ∧ t.tidv = s.tidv ∧ t.xerr = s.xerr

/-! ## The CRC engine (40_crc.md) -/

/-- R94's check value, with the register after each byte. -/
def Obligations.CrcCheckValueHolds : Prop :=
  crc16 [0x31, 0x32, 0x33, 0x34, 0x35, 0x36, 0x37, 0x38, 0x39] = 0xBF1A ∧
  (List.range 9).map (fun k => crc16 ([0x31, 0x32, 0x33, 0x34, 0x35, 0x36, 0x37, 0x38, 0x39].take (k + 1))) =
    [0x0330, 0x1672, 0x06C7, 0xD111, 0xACAA, 0x88F3, 0xA534, 0x6614, 0xBF1A]

/-- R93: the table's entries are `crc_step(0, i)`, and the table-driven form equals the bit-serial one everywhere. -/
def Obligations.TableDrivenCrcEqualsBitSerial : Prop :=
  crcTable = (List.range 256).map (fun i => crcStep 0 (BitVec.ofNat 8 i)) ∧
  ∀ (r : Half) (b : Byte), crcStep r b = crcStepByTable r b

/-- R98: continuation, and the register fed its own two bytes goes to zero. -/
def Obligations.CrcContinuesAndOwnBytesGiveZero : Prop :=
  (∀ a b : List Byte, crc16 (a ++ b) = b.foldl crcStep (crc16 a)) ∧
  (∀ r : Half, crcStep (crcStep r (BitVec.ofNat 8 (r.toNat / 256))) (BitVec.ofNat 8 (r.toNat % 256)) = 0) ∧
  crc16 [0x02, 0x05] = 0

/-- R99, for every state: every other field is unchanged. -/
def Obligations.CrcInitLoadsTheInitialValue : Prop :=
  encode .crcInit = 0x00000001 ∧
  ∀ s : State, exec .crcInit s = .next { s with crc := 0x0205, lasterr := 0 }

/-- R91's update has two fixed points for a zero byte, `0x0000` and `0xF01F`. R100's corner case calls `0x0000` the only one:
there its sentence and R91, "the definition" (R93), disagree, and the model follows R91 (log 21). -/
def Obligations.ZeroByteFixedPoints : Prop := ∀ r : Half, crcStep r 0 = r ↔ r = 0x0000 ∨ r = 0xF01F

/-- R100's pseudocode, for every state and byte: every other field is unchanged. -/
def Obligations.CrcByteFeedsOneByte : Prop :=
  ∀ (b : Byte) (s : State),
    (encode (.crcByte b)).toNat = b.toNat * 256 + 0x02 ∧
    exec (.crcByte b) s = .next { s with crc := crcStep s.crc b, lasterr := 0 }

/-- R101 with R78: the pseudo-operation `CRC16` leaves and reads `crc16` of its bytes, from any state. -/
def Obligations.CrcSequenceReadsCrc16 : Prop :=
  ∀ (bytes : List Byte) (s : State),
    issue (crc16Moves bytes) s = .next { s with
      crc := crc16 bytes, lasterr := 0
      resps := s.resps ++ List.replicate (bytes.length + 1) .done ++
        [.data (BitVec.ofNat 32 (crc16 bytes).toNat)] }

/-- R102: exactly three operations write `CRC`, each with the value it writes, and the CRC family changes nothing but `CRC`
and `LASTERR`. -/
def Obligations.OnlyThreeOperationsWriteCrc : Prop :=
  (∀ (i : Instr) (s t : State), exec i s = .next t → t.crc ≠ s.crc →
    i = .crcInit ∨ (∃ b, i = .crcByte b) ∨ i = .encUart) ∧
  (∀ s : State, exec .crcInit s = .next { s with crc := 0x0205, lasterr := 0 }) ∧
  (∀ (b : Byte) (s : State), exec (.crcByte b) s = .next { s with crc := crcStep s.crc b, lasterr := 0 }) ∧
  (∀ s : State, s.cmdv = true → s.rawv = true → s.cmd.toNat ≤ 0xFA →
    ∃ t, exec .encUart s = .next t ∧ t.crc = crc16 ((uartFrame s.cmd s.raw).drop 2 |>.take 5))

/-! ## The command table and the Message (41_command_table_and_message.md) -/

/-- R114, over every table and for the block's own; R111 condition 3 makes `CMD.SEL 3` succeed whatever the table. -/
def Obligations.CmdSelSelectsOrReportsBadCommand : Prop :=
  (∀ (imm : Byte) (s : State),
    (encode (.cmdSel imm)).toNat = imm.toNat * 256 + 0x10 ∧
    exec (.cmdSel imm) s = .next (s.selectCommand Config.cmdtab imm)) ∧
  (∀ (tab : CmdTab) (imm : Byte) (s : State),
    ((∃ r ∈ tab.rows, r.id = imm) →
      s.selectCommand tab imm = { s with cmd := imm, cmdv := true, lasterr := 0 }) ∧
    ((∀ r ∈ tab.rows, r.id ≠ imm) →
      s.selectCommand tab imm =
        { s with lasterr := 6, errs := s.errs ||| 0x040, errsEver := s.errsEver ||| 0x040 })) ∧
  (∀ s : State, exec (.cmdSel 0x03) s = .next { s with cmd := 0x03, cmdv := true, lasterr := 0 })

/-- R115. -/
def Obligations.TidSetGivesTheTargetId : Prop :=
  ∀ (imm : Byte) (s : State),
    (encode (.tidSet imm)).toNat = imm.toNat * 256 + 0x11 ∧
    exec (.tidSet imm) s = .next { s with tid := imm, tidv := true, lasterr := 0 }

/-- R116: `TID` keeps its bits; after it `ENC.UART` still submits and `ENC.CAN` ends in `MissingTargetId`. -/
def Obligations.TidClrRemovesTheTargetId : Prop :=
  encode .tidClr = 0x00000012 ∧
  (∀ s : State, exec .tidClr s = .next { s with tidv := false, lasterr := 0 }) ∧
  ∀ s t : State, exec .tidClr s = .next t → s.cmdv = true → s.rawv = true →
    exec .encCan t = .next { t with lasterr := 2, errs := t.errs ||| 0x004, errsEver := t.errsEver ||| 0x004 } ∧
    (s.cmd.toNat ≤ 0xFA → ∃ a u, exec .encUart t = .next u ∧ u.out = t.out ++ [.uart (uartFrame t.cmd t.raw) a])

/-- R24: no operation reads `TID` while `TIDV = 0`: another content of `TID` changes nothing else. -/
def Obligations.InvalidTargetIdIsNotRead : Prop :=
  ∀ (i : Instr) (s t : State) (x : Byte), s.tidv = false → exec i s = .next t →
    (∀ b, i ≠ .tidSet b) → exec i { s with tid := x } = .next { t with tid := x }

/-- R117: the encoders read the Message and never write it, so one Message can be encoded any number of times. -/
def Obligations.EncodersLeaveTheMessage : Prop :=
  ∀ (i : Instr) (s t : State), (i = .encUart ∨ i = .encCan) → exec i s = .next t →
    t.message = s.message ∧ t.cmd = s.cmd ∧ t.cmdv = s.cmdv ∧ t.tid = s.tid ∧ t.tidv = s.tidv ∧
      t.raw = s.raw ∧ t.rawv = s.rawv ∧ t.val = s.val

/-! ## The scaler (42_scaler.md) -/

/-- R136: the three ends of `SCALE`; every field not named is unchanged, and `RAW` holds the integer in two's complement. -/
def Obligations.ScaleStoresThePayloadOrReports : Prop :=
  encode .scale = 0x00000020 ∧
  ∀ s : State,
    (s.cmdv = false →
      exec .scale s = .next
        { s with lasterr := 7, errs := s.errs ||| 0x080, errsEver := s.errsEver ||| 0x080 }) ∧
    (∀ (r : CmdRow) (n : Int), s.cmdv = true → r ∈ Config.cmdtab.rows → r.id = s.cmd →
      scaleRound s.val r.scale = some n →
      exec .scale s = .next { s with raw := BitVec.ofInt 32 n, rawv := true, lasterr := 0 } ∧
      (BitVec.ofInt 32 n).toInt = n) ∧
    (∀ r : CmdRow, s.cmdv = true → r ∈ Config.cmdtab.rows → r.id = s.cmd →
      scaleRound s.val r.scale = none →
      exec .scale s = .next
        { s with rawv := false, lasterr := 1, errs := s.errs ||| 0x002, errsEver := s.errsEver ||| 0x002 })

/-- R138: after a `PayloadOverflow` the encoders refuse, and `RAW` still holds its bits. -/
def Obligations.FailedScaleBlocksTheEncoders : Prop :=
  ∀ (i : Instr) (s t : State), exec .scale s = .next t → t.lasterr = 1 → (i = .encUart ∨ i = .encCan) →
    t.raw = s.raw ∧ t.rawv = false ∧
    exec i t = .next { t with lasterr := 7, errs := t.errs ||| 0x080, errsEver := t.errsEver ||| 0x080 }

/-- R135: a NaN or an infinity in either argument is `Overflow`. -/
def Obligations.NonFiniteInputsOverflow : Prop :=
  ∀ u v : F64, (u.extractLsb' 52 11 = 2047 ∨ v.extractLsb' 52 11 = 2047) → scaleRound u v = none

/-- R137: the range boundaries on the binary64 product `p`, and the patterns the rule names (scale 1.0). -/
def Obligations.ScaleRangeBoundaries : Prop :=
  (∀ p : Rat, (roundToI32 p).isSome = true ↔ (-4294967297 / 2 : Rat) < p ∧ p < (4294967295 / 2 : Rat)) ∧
  (∀ (u v : F64) (a b p : Rat), val64 u = .fin a → val64 v = .fin b → rne64 (a * b) = some p →
    scaleRound u v = roundToI32 p) ∧
  val64 0x41DFFFFFFFDFFFFF = .fin (4294967295 / 2 - 1 / 2 ^ 22) ∧
  val64 0xC1E00000000FFFFF = .fin (-4294967297 / 2 + 1 / 2 ^ 21) ∧
  scaleRound 0x41DFFFFFFFC00000 0x3FF0000000000000 = some 2147483647 ∧
  scaleRound 0x41DFFFFFFFDFFFFF 0x3FF0000000000000 = some 2147483647 ∧
  scaleRound 0x41DFFFFFFFE00000 0x3FF0000000000000 = none ∧
  scaleRound 0xC1E0000000000000 0x3FF0000000000000 = some (-2147483648) ∧
  scaleRound 0xC1E00000000FFFFF 0x3FF0000000000000 = some (-2147483648) ∧
  scaleRound 0xC1E0000000100000 0x3FF0000000000000 = none

/-- R140, U8: four inputs on which rounding once would give another integer. -/
def Obligations.DoubleRoundingIsObservable : Prop :=
  (∀ q ∈ [((0x3F726E978D4FDF3B : F64), (0x408F400000000000 : F64), (5 : Int), (4 : Int)),
          (0x3F76872B020C49BA, 0x408F400000000000, 6, 5),
          (0x3EFA36E2EB1C432C, 0x40F86A0000000000, 3, 2),
          (0x3EC4F8B588E368F0, 0x412E848000000000, 3, 2)],
    scaleRound q.1 q.2.1 = some q.2.2.1 ∧ rhaz (magnitude q.1 * magnitude q.2.1) = q.2.2.2)

/-- R133: what `RNE64` gives is a binary64 value, no binary64 value is nearer, and of two equally near ones it is the one
whose significand is even (bit 0 of its pattern); it overflows exactly from the midpoint above the largest finite value on; a
binary64 value is its own rounding; and the rule's two facts about the extremes. -/
def Obligations.Rne64FixesBinary64ValuesAndExtremes : Prop :=
  (∀ q p : Rat, rne64 q = some p →
    (∃ w : F64, val64 w = .fin p) ∧
    (∀ (u : F64) (x : Rat), val64 u = .fin x → |q - p| ≤ |q - x|) ∧
    (∀ (u w : F64) (x : Rat), val64 w = .fin p → val64 u = .fin x → x ≠ p → |q - x| = |q - p| →
      w.getLsbD 0 = false)) ∧
  (∀ q : Rat, rne64 q = none ↔ (2 : Rat) ^ 1024 - 2 ^ 970 ≤ |q|) ∧
  (∀ (u : F64) (q : Rat), val64 u = .fin q → rne64 q = some q) ∧
  (∀ q p : Rat, |q| < (2 : Rat) ^ (-1022 : Int) → rne64 q = some p → |p| ≤ (2 : Rat) ^ (-1022 : Int)) ∧
  (∀ q : Rat, rne64 q = none → (2 : Rat) ^ (1023 : Int) ≤ |q|)

/-- R142 (P1, P2): where the exact product is an integer below `2^53` in the i32 range, or is a binary64 value, the first
rounding changes nothing; scale 1.0 is a case of it. -/
def Obligations.ExactProductsAreRoundedOnce : Prop :=
  (∀ (u v : F64) (a b : Rat) (n : Int), val64 u = .fin a → val64 v = .fin b → a * b = (n : Rat) →
    |n| < 2 ^ 53 → -2 ^ 31 ≤ n → n ≤ 2 ^ 31 - 1 → scaleRound u v = some n) ∧
  (∀ (u v w : F64) (a b : Rat), val64 u = .fin a → val64 v = .fin b → val64 w = .fin (a * b) →
    scaleRound u v = roundToI32 (a * b)) ∧
  (∀ (u : F64) (a : Rat), val64 u = .fin a → scaleRound u 0x3FF0000000000000 = roundToI32 a)

/-- R142 (P3): monotone in the value, for a scale that is not negative. -/
def Obligations.ScaleRoundIsMonotone : Prop :=
  ∀ (u u' v : F64) (a a' b : Rat) (n n' : Int), val64 u = .fin a → val64 u' = .fin a' → val64 v = .fin b →
    a ≤ a' → 0 ≤ b → scaleRound u v = some n → scaleRound u' v = some n' → n ≤ n'

/-- R142 (P4): odd symmetry away from the boundary; the sign bit is bit 63. -/
def Obligations.ScaleRoundIsOdd : Prop :=
  ∀ (u v : F64) (n : Int), scaleRound u v = some n → n ≠ -2 ^ 31 →
    scaleRound (u ^^^ 0x8000000000000000) v = some (-n)

/-- R142 (P5): the error bound. -/
def Obligations.ScaleRoundErrorBound : Prop :=
  ∀ (u v : F64) (a b : Rat) (n : Int), val64 u = .fin a → val64 v = .fin b → scaleRound u v = some n →
    |(n : Rat) - a * b| ≤ 1 / 2 + 1 / 2 ^ 22

/-! ## The UART frame (43_uart_frame.md) -/

/-- R155: the ten bytes. -/
def Obligations.UartFrameLayout : Prop :=
  ∀ (cmd : Byte) (raw : Word), cmd.toNat ≤ 0xFA →
    let body : List Byte := [BitVec.ofNat 8 (cmd.toNat + 5), BitVec.ofNat 8 (raw.toNat / 2 ^ 24),
      BitVec.ofNat 8 (raw.toNat / 2 ^ 16), BitVec.ofNat 8 (raw.toNat / 2 ^ 8), BitVec.ofNat 8 raw.toNat]
    uartFrame cmd raw = [0x02, 0x05] ++ body ++
      [BitVec.ofNat 8 ((crc16 body).toNat / 256), BitVec.ofNat 8 (crc16 body).toNat] ++ [0x03]

/-- R158, R159: ten bytes, valid, and the frame gives back the command and the payload. -/
def Obligations.UartFrameIsValidAndInjective : Prop :=
  (∀ (cmd : Byte) (raw : Word), (uartFrame cmd raw).length = 10 ∧ uartFrameValid (uartFrame cmd raw) = true) ∧
  (∀ (cmd cmd' : Byte) (raw raw' : Word), uartFrame cmd raw = uartFrame cmd' raw' → cmd = cmd' ∧ raw = raw')

/-- R156, R157, for some answer of the sink: the checks in order, and what a submission leaves. -/
def Obligations.EncUartReportsOrSubmits : Prop :=
  encode .encUart = 0x00000030 ∧
  ∀ s : State,
    ((s.cmdv = false ∨ s.rawv = false) →
      exec .encUart s = .next
        { s with lasterr := 7, errs := s.errs ||| 0x080, errsEver := s.errsEver ||| 0x080 }) ∧
    (s.cmdv = true → s.rawv = true → 0xFA < s.cmd.toNat →
      exec .encUart s = .next
        { s with lasterr := 8, errs := s.errs ||| 0x100, errsEver := s.errsEver ||| 0x100 }) ∧
    (s.cmdv = true → s.rawv = true → s.cmd.toNat ≤ 0xFA →
      ∃ a t, exec .encUart s = .next t ∧
        t.out = s.out ++ [.uart (uartFrame s.cmd s.raw) a] ∧
        t.crc.toNat = ((uartFrame s.cmd s.raw).getD 7 0).toNat * 256 + ((uartFrame s.cmd s.raw).getD 8 0).toNat ∧
        (a = .ok → t.lasterr = 0 ∧ t.errs = s.errs ∧ t.xerr = s.xerr) ∧
        (∀ w, a = .err w → t.lasterr = 4 ∧ t.errs = s.errs ||| 0x010 ∧ t.xerr = w) ∧
        t.val = s.val ∧ t.raw = s.raw ∧ t.cmd = s.cmd ∧ t.tid = s.tid ∧
        t.cmdv = s.cmdv ∧ t.tidv = s.tidv ∧ t.rawv = s.rawv)

/-- The whole next state of a submitting `ENC.UART`, the answer being the oldest the environment fixed, or, where it fixed
none, the free one (log 2). -/
def Obligations.EncUartExactNextState : Prop :=
  ∀ (s : State) (a : SinkAnswer) (as : List SinkAnswer) (d : Nat),
    s.cmdv = true → s.rawv = true → s.cmd.toNat ≤ 0xFA →
    ((s.answers = a :: as ∧ d = s.draws) ∨
     (s.answers = [] ∧ as = [] ∧ a = Config.sinkAnswer s.draws ∧ d = s.draws + 1)) →
    exec .encUart s = .next
      (let t := { s with
        crc := crc16 (BitVec.ofNat 8 (s.cmd.toNat + 5) :: be32 s.raw)
        out := s.out ++ [OutEvent.uart (uartFrame s.cmd s.raw) a], answers := as, draws := d }
      match a with
      | .ok => { t with lasterr := 0 }
      | .err w => { t with
          lasterr := 4, errs := s.errs ||| 0x010, errsEver := s.errsEver ||| 0x010, xerr := w })

/-- R156, R150: the UART frame depends on the command and the payload alone. -/
def Obligations.UartSubmissionIgnoresTheRest : Prop :=
  ∀ (s s' t t' : State), s'.cmd = s.cmd → s'.raw = s.raw → s'.cmdv = s.cmdv → s'.rawv = s.rawv →
    s'.answers = s.answers → s'.draws = s.draws →
    exec .encUart s = .next t → exec .encUart s' = .next t' →
    ∃ events, t.out = s.out ++ events ∧ t'.out = s'.out ++ events

/-! ## The CAN frame (44_can_frame.md) -/

/-- R171: the identifier's fields. -/
def Obligations.CanIdentifierLayout : Prop :=
  ∀ cmd tid : Byte, (canId cmd tid).toNat = cmd.toNat * 256 + tid.toNat ∧
    (canId cmd tid).extractLsb' 0 8 = tid ∧ (canId cmd tid).extractLsb' 8 8 = cmd ∧
    (canId cmd tid).extractLsb' 16 13 = 0

/-- R172, R173: the payload is the last `n` big-endian bytes, `n` fixed by the payload read as unsigned; doc00's examples,
the second as R173 corrects it. -/
def Obligations.CanPayloadTrimsLeadingZeroBytes : Prop :=
  (∀ raw : Word,
    canPayload raw = (be32 raw).drop (4 - (canPayload raw).length) ∧
    (canPayload raw).length =
      if raw.toNat < 2 ^ 8 then 1 else if raw.toNat < 2 ^ 16 then 2 else if raw.toNat < 2 ^ 24 then 3 else 4) ∧
  canPayload 0x00000005 = [0x05] ∧ canPayload 0x00010000 = [0x01, 0x00, 0x00] ∧
  canPayload 0x00000100 = [0x01, 0x00] ∧ canPayload 0xFF000000 = [0xFF, 0x00, 0x00, 0x00] ∧
  canPayload 0x00000000 = [0x00]

/-- R177: lengths, first byte, and a zero-extending receiver gets the Message back. -/
def Obligations.CanFrameIsReversible : Prop :=
  ∀ (cmd tid : Byte) (raw : Word),
    1 ≤ (canPayload raw).length ∧ (canPayload raw).length ≤ 4 ∧
    ((canPayload raw).length = 1 ∨ (canPayload raw).head? ≠ some 0) ∧ (canId cmd tid).toNat < 2 ^ 16 ∧
    (canPayload raw).foldl (fun acc b => acc * 256 + b.toNat) 0 = raw.toNat ∧
    (∀ (cmd' tid' : Byte) (raw' : Word), canId cmd tid = canId cmd' tid' → canPayload raw = canPayload raw' →
      cmd = cmd' ∧ tid = tid' ∧ raw = raw')

/-- R176, for some answer of the sink: the checks in order, what a submission leaves, and its attributes (R61). -/
def Obligations.EncCanReportsOrSubmits : Prop :=
  encode .encCan = 0x00000031 ∧
  ∀ s : State,
    ((s.cmdv = false ∨ s.rawv = false) →
      exec .encCan s = .next
        { s with lasterr := 7, errs := s.errs ||| 0x080, errsEver := s.errsEver ||| 0x080 }) ∧
    (s.cmdv = true → s.rawv = true → s.tidv = false →
      exec .encCan s = .next
        { s with lasterr := 2, errs := s.errs ||| 0x004, errsEver := s.errsEver ||| 0x004 }) ∧
    (s.cmdv = true → s.rawv = true → s.tidv = true →
      ∃ a t, exec .encCan s = .next t ∧
        t.out = s.out ++ [.can (canId s.cmd s.tid) (canPayload s.raw) a] ∧
        (canFrame (canId s.cmd s.tid) (canPayload s.raw)).ide = true ∧
        (canFrame (canId s.cmd s.tid) (canPayload s.raw)).rtr = false ∧
        (canFrame (canId s.cmd s.tid) (canPayload s.raw)).dlc = (canPayload s.raw).length ∧
        (canFrame (canId s.cmd s.tid) (canPayload s.raw)).container.toNat < 2 ^ 29 ∧
        (a = .ok → t.lasterr = 0 ∧ t.errs = s.errs ∧ t.xerr = s.xerr) ∧
        (∀ w, a = .err w → t.lasterr = 4 ∧ t.errs = s.errs ||| 0x010 ∧ t.xerr = w) ∧
        t.val = s.val ∧ t.raw = s.raw ∧ t.cmd = s.cmd ∧ t.tid = s.tid ∧ t.crc = s.crc ∧
        t.cmdv = s.cmdv ∧ t.tidv = s.tidv ∧ t.rawv = s.rawv)

/-- The whole next state of a submitting `ENC.CAN`, the answer being the oldest the environment fixed, or, where it fixed
none, the free one (log 2). -/
def Obligations.EncCanExactNextState : Prop :=
  ∀ (s : State) (a : SinkAnswer) (as : List SinkAnswer) (d : Nat),
    s.cmdv = true → s.rawv = true → s.tidv = true →
    ((s.answers = a :: as ∧ d = s.draws) ∨
     (s.answers = [] ∧ as = [] ∧ a = Config.sinkAnswer s.draws ∧ d = s.draws + 1)) →
    exec .encCan s = .next
      (let t := { s with
        out := s.out ++ [OutEvent.can (canId s.cmd s.tid) (canPayload s.raw) a], answers := as, draws := d }
      match a with
      | .ok => { t with lasterr := 0 }
      | .err w => { t with
          lasterr := 4, errs := s.errs ||| 0x010, errsEver := s.errsEver ||| 0x010, xerr := w })

/-! ## The error record (45_system_ops.md, 60_exceptions.md) -/

/-- R190, R29: what `ERR.CLR` leaves, and that it and reset alone clear a sticky bit. -/
def Obligations.ErrClrAloneClearsTheRecord : Prop :=
  encode .errClr = 0x00000040 ∧
  (∀ s : State, exec .errClr s = .next { s with errs := 0, xerr := 0, lasterr := 0 }) ∧
  ∀ s t : State, step s = .next t → s.errs &&& t.errs ≠ s.errs →
    s.pending.head? = some .reset ∨ s.pending.head? = some (.write 0x00 4 0x00000040)

/-- R220's column "raised by": the completion codes each operation can end with. -/
def Obligations.EachOperationEndsWithItsCodes : Prop :=
  ∀ (i : Instr) (s t : State), exec i s = .next t →
    t.lasterr ∈
      (match i with
      | .crcInit | .crcByte _ | .tidSet _ | .tidClr | .errClr => [0]
      | .cmdSel _ => [0, 6]
      | .scale => [0, 1, 7]
      | .encUart => [0, 4, 7, 8]
      | .encCan => [0, 2, 4, 7] : List Byte)

/-- R229: everything a failing operation changes, by kind, `IllegalOp` among them. -/
def Obligations.FailingOperationChangesOnlyTheRecord : Prop :=
  (∀ (i : Instr) (s t : State), exec i s = .next t → t.lasterr ≠ 0 →
    t.errs = s.errs ||| 1 <<< t.lasterr.toNat ∧
    t.val = s.val ∧ t.raw = s.raw ∧ t.cmd = s.cmd ∧ t.tid = s.tid ∧ t.cmdv = s.cmdv ∧ t.tidv = s.tidv ∧
    (t.lasterr = 1 → t.rawv = false) ∧ (t.lasterr ≠ 1 → t.rawv = s.rawv) ∧
    (t.lasterr ≠ 4 → t.xerr = s.xerr ∧ t.crc = s.crc ∧ t.out = s.out) ∧
    (t.lasterr = 4 → ∃ event, t.out = s.out ++ [event] ∧ event.answer = .err t.xerr ∧
      (i ≠ .encUart → t.crc = s.crc) ∧
      (i = .encUart → t.crc = crc16 ((uartFrame s.cmd s.raw).drop 2 |>.take 5)))) ∧
  (∀ s : State, s.illegalOp =
    { s with lasterr := 5, errs := s.errs ||| 0x020, errsEver := s.errsEver ||| 0x020 })

/-- R37, R208, R230: an operation submits at most one frame, only the encoders submit, and exactly when no local check
failed. -/
def Obligations.EncodersSubmitExactlyOnce : Prop :=
  ∀ (i : Instr) (s t : State), exec i s = .next t →
    (t.out = s.out ∧ ¬ ((i = .encUart ∨ i = .encCan) ∧ (t.lasterr = 0 ∨ t.lasterr = 4))) ∨
    ((i = .encUart ∨ i = .encCan) ∧
      ∃ event, t.out = s.out ++ [event] ∧ event.wellFormed = true ∧
        ((t.lasterr = 0 ∧ event.answer = .ok) ∨ (t.lasterr = 4 ∧ event.answer = .err t.xerr)))

/-! ## Reset and invariants (10_state.md R39, R40; 70_reset_and_hazards.md) -/

/-- R40: every register the spec gives is at the value it gives. -/
def Obligations.ResetValues : Prop :=
  State.reset.val = 0x0000000000000000 ∧ State.reset.raw = 0x00000000 ∧ State.reset.cmd = 0x00 ∧
  State.reset.tid = 0x00 ∧ State.reset.crc = 0x0205 ∧ State.reset.cmdv = false ∧ State.reset.tidv = false ∧
  State.reset.rawv = false ∧ State.reset.lasterr = 0 ∧ State.reset.errs = 0 ∧ State.reset.xerr = 0 ∧
  State.reset.out = []

/-- R250, R252: a reset between two transactions brings every register back; the ghosts keep the history (logs 8, 9). -/
def Obligations.ResetMoveRestoresTheRegisters : Prop :=
  ∀ (s : State) (rest : List HostMove), s.pending = .reset :: rest →
    step s = .next
      { val := 0, raw := 0, cmd := 0, tid := 0, crc := 0x0205, cmdv := false, tidv := false, rawv := false,
        lasterr := 0, errs := 0, xerr := 0, out := []
        errsEver := s.errsEver, past := s.past ++ s.out
        pending := rest, answers := s.answers, draws := s.draws, resps := s.resps }

/-- R39, for every state: true after reset, and preserved by every operation and every bus access. -/
def Obligations.SelectedCommandHasExactlyOneRow : Prop :=
  (State.reset.cmdv = true → Config.cmdtab.rows.countP (fun r => r.id == State.reset.cmd) = 1) ∧
  ∀ s t : State, step s = .next t →
    (s.cmdv = true → Config.cmdtab.rows.countP (fun r => r.id == s.cmd) = 1) →
    (t.cmdv = true → Config.cmdtab.rows.countP (fun r => r.id == t.cmd) = 1)

/-- The invariant holds at reset. -/
def Obligations.InvariantHoldsAtReset : Prop := State.reset.Inv

/-- Every step keeps the invariant, from every state that has it. -/
def Obligations.StepKeepsTheInvariant : Prop := ∀ s t : State, s.Inv → step s = .next t → t.Inv

/-! ## The host software at the boundary (46_host_software_boundary.md) -/

/-- R197: a Motor call whose value scales submits one CAN frame with the scaled payload and answers what the sink said; one
whose value does not submits nothing and answers `PayloadOverflow`. -/
def Obligations.MotorCallSubmitsTheScaledPayload : Prop :=
  (∀ (s : State) (c t : Byte) (v : F64) (r : CmdRow) (n : Int),
    r ∈ Config.cmdtab.rows → r.id = c → scaleRound v r.scale = some n →
    ∃ u, motorCall c t v s =
        .next (u, some (match s.nextAnswer with | .ok => 0 | .err _ => 4)) ∧
      u.out = s.out ++ [.can (canId c t) (canPayload (BitVec.ofInt 32 n)) s.nextAnswer] ∧
      u.crc = s.crc ∧ u.pending = s.pending) ∧
  (∀ (s : State) (c t : Byte) (v : F64) (r : CmdRow),
    r ∈ Config.cmdtab.rows → r.id = c → scaleRound v r.scale = none →
    ∃ u, motorCall c t v s = .next (u, some 1) ∧ u.out = s.out ∧ u.rawv = false ∧ u.crc = s.crc)

/-- R202, R205: whatever happens to the others, each call of a tick whose value scales submits its one frame, and each call
whose value does not scale submits nothing; reported are the calls that failed, with their codes, in the order of the calls
(log 22). -/
def Obligations.MixerSendsToEveryMotor : Prop :=
  ∀ (calls : List (Byte × F64)) (s : State) (c : Byte) (r : CmdRow),
    r ∈ Config.cmdtab.rows → r.id = c →
    ∃ (u : State) (failed : List (Byte × Option Byte)) (sent : List (Option OutEvent)),
      issueCalls c calls s = .next (u, failed) ∧ sent.length = calls.length ∧ u.out = s.out ++ sent.filterMap id ∧
      (∀ k (hk : k < calls.length),
        (∀ n, scaleRound (calls[k]).2 r.scale = some n →
          ∃ a, sent[k]? = some (some (.can (canId c (calls[k]).1) (canPayload (BitVec.ofInt 32 n)) a))) ∧
        (scaleRound (calls[k]).2 r.scale = none → sent[k]? = some none)) ∧
      failed = (calls.zip sent).filterMap (fun p =>
        match p.2 with
        | none => some (p.1.1, some (1 : Byte))
        | some e => if e.answer = .ok then none else some (p.1.1, some (4 : Byte)))

/-- R199, R200, R205: two calls per pair, for every configuration, and the velocity of each chosen by that id's own mask,
times the multiplier; doc00's two examples. That the calls stand in configuration order, `id1` before `id2`, is the model's
choice (log 17). -/
def Obligations.MixerFollowsTheMasks : Prop :=
  (∀ (cfg : DriveConfig) (l r : F64),
    (mixerCalls cfg l r).length = 2 * cfg.pairs.length ∧
    ∀ (k : Nat) (p : MotorPair), cfg.pairs[k]? = some p →
      (p.mask1 = .left → (mixerCalls cfg l r)[2 * k]? = some (p.id1, f64Mul l cfg.speedMultiplier)) ∧
      (p.mask1 = .right → (mixerCalls cfg l r)[2 * k]? = some (p.id1, f64Mul r cfg.speedMultiplier)) ∧
      (p.mask2 = .left → (mixerCalls cfg l r)[2 * k + 1]? = some (p.id2, f64Mul l cfg.speedMultiplier)) ∧
      (p.mask2 = .right → (mixerCalls cfg l r)[2 * k + 1]? = some (p.id2, f64Mul r cfg.speedMultiplier))) ∧
  (∀ (cfg : DriveConfig) (l r r' : F64), (∀ p ∈ cfg.pairs, p.mask1 = .left ∧ p.mask2 = .left) →
    mixerCalls cfg l r = mixerCalls cfg l r') ∧
  mixerCalls ⟨0x40A1940000000000, [⟨63, 74, .left, .left⟩]⟩ 0x3FF0000000000000 0x0000000000000000 =
    [(63, 0x40A1940000000000), (74, 0x40A1940000000000)] ∧
  mixerCalls ⟨0x3FC999999999999A, [⟨4, 87, .left, .right⟩]⟩ 0x3FF0000000000000 0xBFF0000000000000 =
    [(4, 0x3FC999999999999A), (87, 0xBFC999999999999A)]

/-- R201: the host's product is the IEEE 754 one. A finite product has the value R133 rounds to and the product of the signs;
one that overflows, and an infinity times anything but zero and a NaN, is the infinity of that sign; the rest are NaNs, which
NaN being free. The sign of a zero and the cases with an infinity or a NaN are taken from IEEE 754 (log 16). -/
def Obligations.HostProductIsTheIeeeProduct : Prop :=
  ∀ u v : F64,
    (∀ a b p : Rat, val64 u = .fin a → val64 v = .fin b → rne64 (a * b) = some p →
      val64 (f64Mul u v) = .fin p ∧ (f64Mul u v).getLsbD 63 = (u.getLsbD 63 ^^ v.getLsbD 63)) ∧
    ((∃ a b, val64 u = .fin a ∧ val64 v = .fin b ∧ rne64 (a * b) = none) ∨
        (val64 u = .inf ∧ val64 v = .inf) ∨
        (val64 u = .inf ∧ ∃ b, b ≠ 0 ∧ val64 v = .fin b) ∨ ((∃ a, a ≠ 0 ∧ val64 u = .fin a) ∧ val64 v = .inf) →
      f64Mul u v = if u.getLsbD 63 = v.getLsbD 63 then 0x7FF0000000000000 else 0xFFF0000000000000) ∧
    (val64 u = .nan ∨ val64 v = .nan ∨ (val64 u = .inf ∧ val64 v = .fin 0) ∨ (val64 u = .fin 0 ∧ val64 v = .inf) →
      val64 (f64Mul u v) = .nan)
end

