-- ==== Sys2Proof/Laws/State.lean ====
section
/-! SUPPORT. One lemma per field per update of the state, so that no proof unfolds a record update. -/

namespace Sys2Proof.Machine

@[simp] theorem raise_val (s : State) (e : ErrKind) : (s.raise e).val = s.val := rfl
@[simp] theorem raise_raw (s : State) (e : ErrKind) : (s.raise e).raw = s.raw := rfl
@[simp] theorem raise_cmd (s : State) (e : ErrKind) : (s.raise e).cmd = s.cmd := rfl
@[simp] theorem raise_tid (s : State) (e : ErrKind) : (s.raise e).tid = s.tid := rfl
@[simp] theorem raise_crc (s : State) (e : ErrKind) : (s.raise e).crc = s.crc := rfl
@[simp] theorem raise_cmdv (s : State) (e : ErrKind) : (s.raise e).cmdv = s.cmdv := rfl
@[simp] theorem raise_tidv (s : State) (e : ErrKind) : (s.raise e).tidv = s.tidv := rfl
@[simp] theorem raise_rawv (s : State) (e : ErrKind) : (s.raise e).rawv = rawvAfter e s.rawv := rfl
@[simp] theorem raise_lasterr (s : State) (e : ErrKind) : (s.raise e).lasterr = BitVec.ofNat 8 (errNumber e) := rfl
@[simp] theorem raise_errs (s : State) (e : ErrKind) : (s.raise e).errs = s.errs ||| stickyBit (errNumber e) := rfl
@[simp] theorem raise_xerr (s : State) (e : ErrKind) : (s.raise e).xerr = xerrAfter e s.xerr := rfl
@[simp] theorem raise_out (s : State) (e : ErrKind) : (s.raise e).out = s.out := rfl
@[simp] theorem raise_errsEver (s : State) (e : ErrKind) : (s.raise e).errsEver = s.errsEver ||| stickyBit (errNumber e) := rfl
@[simp] theorem raise_past (s : State) (e : ErrKind) : (s.raise e).past = s.past := rfl
@[simp] theorem raise_pending (s : State) (e : ErrKind) : (s.raise e).pending = s.pending := rfl
@[simp] theorem raise_answers (s : State) (e : ErrKind) : (s.raise e).answers = s.answers := rfl
@[simp] theorem raise_draws (s : State) (e : ErrKind) : (s.raise e).draws = s.draws := rfl
@[simp] theorem raise_resps (s : State) (e : ErrKind) : (s.raise e).resps = s.resps := rfl

@[simp] theorem succeed_val (s : State) : (s.succeed).val = s.val := rfl
@[simp] theorem succeed_raw (s : State) : (s.succeed).raw = s.raw := rfl
@[simp] theorem succeed_cmd (s : State) : (s.succeed).cmd = s.cmd := rfl
@[simp] theorem succeed_tid (s : State) : (s.succeed).tid = s.tid := rfl
@[simp] theorem succeed_crc (s : State) : (s.succeed).crc = s.crc := rfl
@[simp] theorem succeed_cmdv (s : State) : (s.succeed).cmdv = s.cmdv := rfl
@[simp] theorem succeed_tidv (s : State) : (s.succeed).tidv = s.tidv := rfl
@[simp] theorem succeed_rawv (s : State) : (s.succeed).rawv = s.rawv := rfl
@[simp] theorem succeed_lasterr (s : State) : (s.succeed).lasterr = 0 := rfl
@[simp] theorem succeed_errs (s : State) : (s.succeed).errs = s.errs := rfl
@[simp] theorem succeed_xerr (s : State) : (s.succeed).xerr = s.xerr := rfl
@[simp] theorem succeed_out (s : State) : (s.succeed).out = s.out := rfl
@[simp] theorem succeed_errsEver (s : State) : (s.succeed).errsEver = s.errsEver := rfl
@[simp] theorem succeed_past (s : State) : (s.succeed).past = s.past := rfl
@[simp] theorem succeed_pending (s : State) : (s.succeed).pending = s.pending := rfl
@[simp] theorem succeed_answers (s : State) : (s.succeed).answers = s.answers := rfl
@[simp] theorem succeed_draws (s : State) : (s.succeed).draws = s.draws := rfl
@[simp] theorem succeed_resps (s : State) : (s.succeed).resps = s.resps := rfl

@[simp] theorem recordBusFault_val (s : State) : (s.recordBusFault).val = s.val := rfl
@[simp] theorem recordBusFault_raw (s : State) : (s.recordBusFault).raw = s.raw := rfl
@[simp] theorem recordBusFault_cmd (s : State) : (s.recordBusFault).cmd = s.cmd := rfl
@[simp] theorem recordBusFault_tid (s : State) : (s.recordBusFault).tid = s.tid := rfl
@[simp] theorem recordBusFault_crc (s : State) : (s.recordBusFault).crc = s.crc := rfl
@[simp] theorem recordBusFault_cmdv (s : State) : (s.recordBusFault).cmdv = s.cmdv := rfl
@[simp] theorem recordBusFault_tidv (s : State) : (s.recordBusFault).tidv = s.tidv := rfl
@[simp] theorem recordBusFault_rawv (s : State) : (s.recordBusFault).rawv = s.rawv := rfl
@[simp] theorem recordBusFault_lasterr (s : State) : (s.recordBusFault).lasterr = s.lasterr := rfl
@[simp] theorem recordBusFault_errs (s : State) : (s.recordBusFault).errs = s.errs ||| stickyBit 9 := rfl
@[simp] theorem recordBusFault_xerr (s : State) : (s.recordBusFault).xerr = s.xerr := rfl
@[simp] theorem recordBusFault_out (s : State) : (s.recordBusFault).out = s.out := rfl
@[simp] theorem recordBusFault_errsEver (s : State) : (s.recordBusFault).errsEver = s.errsEver ||| stickyBit 9 := rfl
@[simp] theorem recordBusFault_past (s : State) : (s.recordBusFault).past = s.past := rfl
@[simp] theorem recordBusFault_pending (s : State) : (s.recordBusFault).pending = s.pending := rfl
@[simp] theorem recordBusFault_answers (s : State) : (s.recordBusFault).answers = s.answers := rfl
@[simp] theorem recordBusFault_draws (s : State) : (s.recordBusFault).draws = s.draws := rfl
@[simp] theorem recordBusFault_resps (s : State) : (s.recordBusFault).resps = s.resps := rfl

@[simp] theorem respond_val (s : State) (r : BusResp) : (s.respond r).val = s.val := rfl
@[simp] theorem respond_raw (s : State) (r : BusResp) : (s.respond r).raw = s.raw := rfl
@[simp] theorem respond_cmd (s : State) (r : BusResp) : (s.respond r).cmd = s.cmd := rfl
@[simp] theorem respond_tid (s : State) (r : BusResp) : (s.respond r).tid = s.tid := rfl
@[simp] theorem respond_crc (s : State) (r : BusResp) : (s.respond r).crc = s.crc := rfl
@[simp] theorem respond_cmdv (s : State) (r : BusResp) : (s.respond r).cmdv = s.cmdv := rfl
@[simp] theorem respond_tidv (s : State) (r : BusResp) : (s.respond r).tidv = s.tidv := rfl
@[simp] theorem respond_rawv (s : State) (r : BusResp) : (s.respond r).rawv = s.rawv := rfl
@[simp] theorem respond_lasterr (s : State) (r : BusResp) : (s.respond r).lasterr = s.lasterr := rfl
@[simp] theorem respond_errs (s : State) (r : BusResp) : (s.respond r).errs = s.errs := rfl
@[simp] theorem respond_xerr (s : State) (r : BusResp) : (s.respond r).xerr = s.xerr := rfl
@[simp] theorem respond_out (s : State) (r : BusResp) : (s.respond r).out = s.out := rfl
@[simp] theorem respond_errsEver (s : State) (r : BusResp) : (s.respond r).errsEver = s.errsEver := rfl
@[simp] theorem respond_past (s : State) (r : BusResp) : (s.respond r).past = s.past := rfl
@[simp] theorem respond_pending (s : State) (r : BusResp) : (s.respond r).pending = s.pending := rfl
@[simp] theorem respond_answers (s : State) (r : BusResp) : (s.respond r).answers = s.answers := rfl
@[simp] theorem respond_draws (s : State) (r : BusResp) : (s.respond r).draws = s.draws := rfl
@[simp] theorem respond_resps (s : State) (r : BusResp) : (s.respond r).resps = s.resps ++ [r] := rfl

@[simp] theorem writeRaw_val (s : State) (w : Word) : (s.writeRaw w).val = s.val := rfl
@[simp] theorem writeRaw_raw (s : State) (w : Word) : (s.writeRaw w).raw = w := rfl
@[simp] theorem writeRaw_cmd (s : State) (w : Word) : (s.writeRaw w).cmd = s.cmd := rfl
@[simp] theorem writeRaw_tid (s : State) (w : Word) : (s.writeRaw w).tid = s.tid := rfl
@[simp] theorem writeRaw_crc (s : State) (w : Word) : (s.writeRaw w).crc = s.crc := rfl
@[simp] theorem writeRaw_cmdv (s : State) (w : Word) : (s.writeRaw w).cmdv = s.cmdv := rfl
@[simp] theorem writeRaw_tidv (s : State) (w : Word) : (s.writeRaw w).tidv = s.tidv := rfl
@[simp] theorem writeRaw_rawv (s : State) (w : Word) : (s.writeRaw w).rawv = true := rfl
@[simp] theorem writeRaw_lasterr (s : State) (w : Word) : (s.writeRaw w).lasterr = s.lasterr := rfl
@[simp] theorem writeRaw_errs (s : State) (w : Word) : (s.writeRaw w).errs = s.errs := rfl
@[simp] theorem writeRaw_xerr (s : State) (w : Word) : (s.writeRaw w).xerr = s.xerr := rfl
@[simp] theorem writeRaw_out (s : State) (w : Word) : (s.writeRaw w).out = s.out := rfl
@[simp] theorem writeRaw_errsEver (s : State) (w : Word) : (s.writeRaw w).errsEver = s.errsEver := rfl
@[simp] theorem writeRaw_past (s : State) (w : Word) : (s.writeRaw w).past = s.past := rfl
@[simp] theorem writeRaw_pending (s : State) (w : Word) : (s.writeRaw w).pending = s.pending := rfl
@[simp] theorem writeRaw_answers (s : State) (w : Word) : (s.writeRaw w).answers = s.answers := rfl
@[simp] theorem writeRaw_draws (s : State) (w : Word) : (s.writeRaw w).draws = s.draws := rfl
@[simp] theorem writeRaw_resps (s : State) (w : Word) : (s.writeRaw w).resps = s.resps := rfl

@[simp] theorem writeValLow_val (s : State) (w : Word) : (s.writeValLow w).val = valHigh s ++ w := rfl
@[simp] theorem writeValLow_raw (s : State) (w : Word) : (s.writeValLow w).raw = s.raw := rfl
@[simp] theorem writeValLow_cmd (s : State) (w : Word) : (s.writeValLow w).cmd = s.cmd := rfl
@[simp] theorem writeValLow_tid (s : State) (w : Word) : (s.writeValLow w).tid = s.tid := rfl
@[simp] theorem writeValLow_crc (s : State) (w : Word) : (s.writeValLow w).crc = s.crc := rfl
@[simp] theorem writeValLow_cmdv (s : State) (w : Word) : (s.writeValLow w).cmdv = s.cmdv := rfl
@[simp] theorem writeValLow_tidv (s : State) (w : Word) : (s.writeValLow w).tidv = s.tidv := rfl
@[simp] theorem writeValLow_rawv (s : State) (w : Word) : (s.writeValLow w).rawv = s.rawv := rfl
@[simp] theorem writeValLow_lasterr (s : State) (w : Word) : (s.writeValLow w).lasterr = s.lasterr := rfl
@[simp] theorem writeValLow_errs (s : State) (w : Word) : (s.writeValLow w).errs = s.errs := rfl
@[simp] theorem writeValLow_xerr (s : State) (w : Word) : (s.writeValLow w).xerr = s.xerr := rfl
@[simp] theorem writeValLow_out (s : State) (w : Word) : (s.writeValLow w).out = s.out := rfl
@[simp] theorem writeValLow_errsEver (s : State) (w : Word) : (s.writeValLow w).errsEver = s.errsEver := rfl
@[simp] theorem writeValLow_past (s : State) (w : Word) : (s.writeValLow w).past = s.past := rfl
@[simp] theorem writeValLow_pending (s : State) (w : Word) : (s.writeValLow w).pending = s.pending := rfl
@[simp] theorem writeValLow_answers (s : State) (w : Word) : (s.writeValLow w).answers = s.answers := rfl
@[simp] theorem writeValLow_draws (s : State) (w : Word) : (s.writeValLow w).draws = s.draws := rfl
@[simp] theorem writeValLow_resps (s : State) (w : Word) : (s.writeValLow w).resps = s.resps := rfl

@[simp] theorem writeValHigh_val (s : State) (w : Word) : (s.writeValHigh w).val = w ++ valLow s := rfl
@[simp] theorem writeValHigh_raw (s : State) (w : Word) : (s.writeValHigh w).raw = s.raw := rfl
@[simp] theorem writeValHigh_cmd (s : State) (w : Word) : (s.writeValHigh w).cmd = s.cmd := rfl
@[simp] theorem writeValHigh_tid (s : State) (w : Word) : (s.writeValHigh w).tid = s.tid := rfl
@[simp] theorem writeValHigh_crc (s : State) (w : Word) : (s.writeValHigh w).crc = s.crc := rfl
@[simp] theorem writeValHigh_cmdv (s : State) (w : Word) : (s.writeValHigh w).cmdv = s.cmdv := rfl
@[simp] theorem writeValHigh_tidv (s : State) (w : Word) : (s.writeValHigh w).tidv = s.tidv := rfl
@[simp] theorem writeValHigh_rawv (s : State) (w : Word) : (s.writeValHigh w).rawv = s.rawv := rfl
@[simp] theorem writeValHigh_lasterr (s : State) (w : Word) : (s.writeValHigh w).lasterr = s.lasterr := rfl
@[simp] theorem writeValHigh_errs (s : State) (w : Word) : (s.writeValHigh w).errs = s.errs := rfl
@[simp] theorem writeValHigh_xerr (s : State) (w : Word) : (s.writeValHigh w).xerr = s.xerr := rfl
@[simp] theorem writeValHigh_out (s : State) (w : Word) : (s.writeValHigh w).out = s.out := rfl
@[simp] theorem writeValHigh_errsEver (s : State) (w : Word) : (s.writeValHigh w).errsEver = s.errsEver := rfl
@[simp] theorem writeValHigh_past (s : State) (w : Word) : (s.writeValHigh w).past = s.past := rfl
@[simp] theorem writeValHigh_pending (s : State) (w : Word) : (s.writeValHigh w).pending = s.pending := rfl
@[simp] theorem writeValHigh_answers (s : State) (w : Word) : (s.writeValHigh w).answers = s.answers := rfl
@[simp] theorem writeValHigh_draws (s : State) (w : Word) : (s.writeValHigh w).draws = s.draws := rfl
@[simp] theorem writeValHigh_resps (s : State) (w : Word) : (s.writeValHigh w).resps = s.resps := rfl

@[simp] theorem refuseAccess_val (s : State) : (s.refuseAccess).val = s.val := rfl
@[simp] theorem refuseAccess_raw (s : State) : (s.refuseAccess).raw = s.raw := rfl
@[simp] theorem refuseAccess_cmd (s : State) : (s.refuseAccess).cmd = s.cmd := rfl
@[simp] theorem refuseAccess_tid (s : State) : (s.refuseAccess).tid = s.tid := rfl
@[simp] theorem refuseAccess_crc (s : State) : (s.refuseAccess).crc = s.crc := rfl
@[simp] theorem refuseAccess_cmdv (s : State) : (s.refuseAccess).cmdv = s.cmdv := rfl
@[simp] theorem refuseAccess_tidv (s : State) : (s.refuseAccess).tidv = s.tidv := rfl
@[simp] theorem refuseAccess_rawv (s : State) : (s.refuseAccess).rawv = s.rawv := rfl
@[simp] theorem refuseAccess_lasterr (s : State) : (s.refuseAccess).lasterr = s.lasterr := rfl
@[simp] theorem refuseAccess_errs (s : State) : (s.refuseAccess).errs = s.errs ||| stickyBit 9 := rfl
@[simp] theorem refuseAccess_xerr (s : State) : (s.refuseAccess).xerr = s.xerr := rfl
@[simp] theorem refuseAccess_out (s : State) : (s.refuseAccess).out = s.out := rfl
@[simp] theorem refuseAccess_errsEver (s : State) : (s.refuseAccess).errsEver = s.errsEver ||| stickyBit 9 := rfl
@[simp] theorem refuseAccess_past (s : State) : (s.refuseAccess).past = s.past := rfl
@[simp] theorem refuseAccess_pending (s : State) : (s.refuseAccess).pending = s.pending := rfl
@[simp] theorem refuseAccess_answers (s : State) : (s.refuseAccess).answers = s.answers := rfl
@[simp] theorem refuseAccess_draws (s : State) : (s.refuseAccess).draws = s.draws := rfl
@[simp] theorem refuseAccess_resps (s : State) : (s.refuseAccess).resps = s.resps ++ [.busFault] := rfl

@[simp] theorem resetBlock_val (s : State) : (s.resetBlock).val = 0 := rfl
@[simp] theorem resetBlock_raw (s : State) : (s.resetBlock).raw = 0 := rfl
@[simp] theorem resetBlock_cmd (s : State) : (s.resetBlock).cmd = 0 := rfl
@[simp] theorem resetBlock_tid (s : State) : (s.resetBlock).tid = 0 := rfl
@[simp] theorem resetBlock_crc (s : State) : (s.resetBlock).crc = 0x0205 := rfl
@[simp] theorem resetBlock_cmdv (s : State) : (s.resetBlock).cmdv = false := rfl
@[simp] theorem resetBlock_tidv (s : State) : (s.resetBlock).tidv = false := rfl
@[simp] theorem resetBlock_rawv (s : State) : (s.resetBlock).rawv = false := rfl
@[simp] theorem resetBlock_lasterr (s : State) : (s.resetBlock).lasterr = 0 := rfl
@[simp] theorem resetBlock_errs (s : State) : (s.resetBlock).errs = 0 := rfl
@[simp] theorem resetBlock_xerr (s : State) : (s.resetBlock).xerr = 0 := rfl
@[simp] theorem resetBlock_out (s : State) : (s.resetBlock).out = [] := rfl
@[simp] theorem resetBlock_errsEver (s : State) : (s.resetBlock).errsEver = s.errsEver := rfl
@[simp] theorem resetBlock_past (s : State) : (s.resetBlock).past = s.past ++ s.out := rfl
@[simp] theorem resetBlock_pending (s : State) : (s.resetBlock).pending = s.pending := rfl
@[simp] theorem resetBlock_answers (s : State) : (s.resetBlock).answers = s.answers := rfl
@[simp] theorem resetBlock_draws (s : State) : (s.resetBlock).draws = s.draws := rfl
@[simp] theorem resetBlock_resps (s : State) : (s.resetBlock).resps = s.resps := rfl

@[simp] theorem answerTaken_val (s : State) : s.answerTaken.val = s.val := by
  unfold State.answerTaken; split <;> rfl
@[simp] theorem answerTaken_raw (s : State) : s.answerTaken.raw = s.raw := by
  unfold State.answerTaken; split <;> rfl
@[simp] theorem answerTaken_cmd (s : State) : s.answerTaken.cmd = s.cmd := by
  unfold State.answerTaken; split <;> rfl
@[simp] theorem answerTaken_tid (s : State) : s.answerTaken.tid = s.tid := by
  unfold State.answerTaken; split <;> rfl
@[simp] theorem answerTaken_crc (s : State) : s.answerTaken.crc = s.crc := by
  unfold State.answerTaken; split <;> rfl
@[simp] theorem answerTaken_cmdv (s : State) : s.answerTaken.cmdv = s.cmdv := by
  unfold State.answerTaken; split <;> rfl
@[simp] theorem answerTaken_tidv (s : State) : s.answerTaken.tidv = s.tidv := by
  unfold State.answerTaken; split <;> rfl
@[simp] theorem answerTaken_rawv (s : State) : s.answerTaken.rawv = s.rawv := by
  unfold State.answerTaken; split <;> rfl
@[simp] theorem answerTaken_lasterr (s : State) : s.answerTaken.lasterr = s.lasterr := by
  unfold State.answerTaken; split <;> rfl
@[simp] theorem answerTaken_errs (s : State) : s.answerTaken.errs = s.errs := by
  unfold State.answerTaken; split <;> rfl
@[simp] theorem answerTaken_xerr (s : State) : s.answerTaken.xerr = s.xerr := by
  unfold State.answerTaken; split <;> rfl
@[simp] theorem answerTaken_out (s : State) : s.answerTaken.out = s.out := by
  unfold State.answerTaken; split <;> rfl
@[simp] theorem answerTaken_errsEver (s : State) : s.answerTaken.errsEver = s.errsEver := by
  unfold State.answerTaken; split <;> rfl
@[simp] theorem answerTaken_past (s : State) : s.answerTaken.past = s.past := by
  unfold State.answerTaken; split <;> rfl
@[simp] theorem answerTaken_pending (s : State) : s.answerTaken.pending = s.pending := by
  unfold State.answerTaken; split <;> rfl
@[simp] theorem answerTaken_resps (s : State) : s.answerTaken.resps = s.resps := by
  unfold State.answerTaken; split <;> rfl

@[simp] theorem answerTaken_of_answers (s : State) (a : SinkAnswer) (as : List SinkAnswer) (h : s.answers = a :: as) :
    s.answerTaken = { s with answers := as } := by
  unfold State.answerTaken; rw [h]

@[simp] theorem answerTaken_of_none (s : State) (h : s.answers = []) :
    s.answerTaken = { s with draws := s.draws + 1 } := by
  unfold State.answerTaken; rw [h]

@[simp] theorem submit_val (s : State) (ev : SinkAnswer → OutEvent) : (s.submit ev).val = s.val := answerTaken_val s
@[simp] theorem submit_raw (s : State) (ev : SinkAnswer → OutEvent) : (s.submit ev).raw = s.raw := answerTaken_raw s
@[simp] theorem submit_cmd (s : State) (ev : SinkAnswer → OutEvent) : (s.submit ev).cmd = s.cmd := answerTaken_cmd s
@[simp] theorem submit_tid (s : State) (ev : SinkAnswer → OutEvent) : (s.submit ev).tid = s.tid := answerTaken_tid s
@[simp] theorem submit_crc (s : State) (ev : SinkAnswer → OutEvent) : (s.submit ev).crc = s.crc := answerTaken_crc s
@[simp] theorem submit_cmdv (s : State) (ev : SinkAnswer → OutEvent) : (s.submit ev).cmdv = s.cmdv := answerTaken_cmdv s
@[simp] theorem submit_tidv (s : State) (ev : SinkAnswer → OutEvent) : (s.submit ev).tidv = s.tidv := answerTaken_tidv s
@[simp] theorem submit_rawv (s : State) (ev : SinkAnswer → OutEvent) : (s.submit ev).rawv = s.rawv := answerTaken_rawv s
@[simp] theorem submit_lasterr (s : State) (ev : SinkAnswer → OutEvent) : (s.submit ev).lasterr = s.lasterr := answerTaken_lasterr s
@[simp] theorem submit_errs (s : State) (ev : SinkAnswer → OutEvent) : (s.submit ev).errs = s.errs := answerTaken_errs s
@[simp] theorem submit_xerr (s : State) (ev : SinkAnswer → OutEvent) : (s.submit ev).xerr = s.xerr := answerTaken_xerr s
@[simp] theorem submit_out (s : State) (ev : SinkAnswer → OutEvent) : (s.submit ev).out = s.out ++ [ev s.nextAnswer] := rfl
@[simp] theorem submit_errsEver (s : State) (ev : SinkAnswer → OutEvent) : (s.submit ev).errsEver = s.errsEver := answerTaken_errsEver s
@[simp] theorem submit_past (s : State) (ev : SinkAnswer → OutEvent) : (s.submit ev).past = s.past := answerTaken_past s
@[simp] theorem submit_pending (s : State) (ev : SinkAnswer → OutEvent) : (s.submit ev).pending = s.pending := answerTaken_pending s
@[simp] theorem submit_answers (s : State) (ev : SinkAnswer → OutEvent) : (s.submit ev).answers = s.answerTaken.answers := rfl
@[simp] theorem submit_draws (s : State) (ev : SinkAnswer → OutEvent) : (s.submit ev).draws = s.answerTaken.draws := rfl
@[simp] theorem submit_resps (s : State) (ev : SinkAnswer → OutEvent) : (s.submit ev).resps = s.resps := answerTaken_resps s

end Sys2Proof.Machine
end

