-- ==== Sys2Proof/Laws/Ops.lean ====
section
/-! SUPPORT. For each shared operation, once, everything it can do. -/

namespace Sys2Proof.Machine

open Host (Outcome)

theorem nextAnswer_of_answers (s : State) (a : SinkAnswer) (as : List SinkAnswer) (h : s.answers = a :: as) :
    s.nextAnswer = a := by
  unfold State.nextAnswer; rw [h]

theorem nextAnswer_of_none (s : State) (h : s.answers = []) : s.nextAnswer = Config.sinkAnswer s.draws := by
  unfold State.nextAnswer; rw [h]

/-- The answer to the next submission depends on the model's own two fields alone. -/
theorem nextAnswer_congr {s s' : State} (ha : s.answers = s'.answers) (hd : s.draws = s'.draws) :
    s.nextAnswer = s'.nextAnswer := by
  unfold State.nextAnswer; rw [ha, hd]

/-- A submission ends in success, or in `TransportError` with the sink's word. -/
theorem submitAndConclude_cases (s : State) (ev : SinkAnswer → OutEvent) :
    (s.nextAnswer = .ok ∧ s.submitAndConclude ev = (s.submit ev).succeed) ∨
    ∃ w, s.nextAnswer = .err w ∧ s.submitAndConclude ev = (s.submit ev).raise (.transportError w) := by
  unfold State.submitAndConclude State.concludeSubmit
  cases s.nextAnswer with
  | ok => exact .inl ⟨rfl, rfl⟩
  | err w => exact .inr ⟨w, rfl, rfl⟩

theorem hasCommand_iff (tab : CmdTab) (id : Byte) : hasCommand tab id = true ↔ ∃ r ∈ tab.rows, r.id = id := by
  simp [hasCommand]

/-- An id the table has is the id of exactly one row (R39, R111 condition 1). -/
theorem selectable_of_hasCommand (tab : CmdTab) (id : Byte) (h : hasCommand tab id = true) : isSelectable tab id := by
  obtain ⟨r, hr, rfl⟩ := (hasCommand_iff tab id).1 h
  have once := List.count_eq_one_of_mem tab.wf.1 (List.mem_map_of_mem hr)
  rw [isSelectable, ← once, List.count, List.countP_map]
  rfl

/-- `CMD.SEL` selects the command or raises `BadCommand`. -/
theorem selectCommand_cases (s : State) (tab : CmdTab) (imm8 : Byte) :
    (hasCommand tab imm8 = true ∧ s.selectCommand tab imm8 = { s with cmd := imm8, cmdv := true, lasterr := 0 }) ∨
    (hasCommand tab imm8 = false ∧ s.selectCommand tab imm8 = s.raise .badCommand) := by
  unfold State.selectCommand
  cases h : hasCommand tab imm8 with
  | true => exact .inl ⟨rfl, rfl⟩
  | false => exact .inr ⟨rfl, rfl⟩

/-- The ids of a table are distinct, so the lookup finds the row that has the id. -/
theorem scaleFor_of_mem (tab : CmdTab) (r : CmdRow) (h : r ∈ tab.rows) : scaleFor tab r.id = r.scale := by
  have nodup : (tab.rows.map CmdRow.id).Nodup := tab.wf.1
  unfold scaleFor
  generalize tab.rows = rows at h nodup
  induction rows with
  | nil => cases h
  | cons x xs ih =>
    rw [List.map_cons, List.nodup_cons] at nodup
    rcases List.mem_cons.1 h with rfl | hm
    · simp
    · have hne : x.id ≠ r.id := fun he => nodup.1 (he ▸ List.mem_map_of_mem hm)
      simpa [List.find?_cons, hne] using ih hm nodup.2

/-- `SCALE` stores a payload, or raises one of its two errors. -/
theorem scalePayload_cases (s : State) (tab : CmdTab) :
    (s.cmdv = false ∧ s.scalePayload tab = s.raise .messageIncomplete) ∨
    (∃ n, s.cmdv = true ∧ scaleRound s.val (scaleFor tab s.cmd) = some n ∧
      s.scalePayload tab = { s with raw := BitVec.ofInt 32 n, rawv := true, lasterr := 0 }) ∨
    (s.cmdv = true ∧ scaleRound s.val (scaleFor tab s.cmd) = none ∧
      s.scalePayload tab = s.raise .payloadOverflow) := by
  unfold State.scalePayload
  cases s.cmdv with
  | false => exact .inl ⟨rfl, rfl⟩
  | true =>
    cases h : scaleRound s.val (scaleFor tab s.cmd) with
    | some n => exact .inr (.inl ⟨n, rfl, rfl, rfl⟩)
    | none => exact .inr (.inr ⟨rfl, rfl, rfl⟩)

/-- `ENC.UART` raises one of its two local errors or submits the frame. -/
theorem execEncUart_cases (s : State) :
    (s.messageReady = false ∧ execEncUart s = .next (s.raise .messageIncomplete)) ∨
    (s.messageReady = true ∧ uartMaxCommand < s.cmd ∧ execEncUart s = .next (s.raise .cmdIdRange)) ∨
    (s.messageReady = true ∧ s.cmd ≤ uartMaxCommand ∧
      execEncUart s = .next ({ s with crc := crc16 (uartBody s.cmd s.raw) }.submitAndConclude
        (.uart (uartFrame s.cmd s.raw)))) := by
  unfold execEncUart
  cases s.messageReady with
  | false => exact .inl ⟨rfl, rfl⟩
  | true =>
    by_cases h : uartMaxCommand < s.cmd
    · exact .inr (.inl ⟨rfl, h, by simp [h]⟩)
    · exact .inr (.inr ⟨rfl, BitVec.not_lt.1 h, by simp [h]⟩)

/-- `ENC.CAN` raises one of its two local errors or submits the frame. -/
theorem execEncCan_cases (s : State) :
    (s.messageReady = false ∧ execEncCan s = .next (s.raise .messageIncomplete)) ∨
    (s.messageReady = true ∧ s.tidv = false ∧ execEncCan s = .next (s.raise .missingTargetId)) ∨
    (s.messageReady = true ∧ s.tidv = true ∧
      execEncCan s = .next (s.submitAndConclude (.can (canId s.cmd s.tid) (canPayload s.raw)))) := by
  unfold execEncCan
  cases s.messageReady with
  | false => exact .inl ⟨rfl, rfl⟩
  | true =>
    cases s.tidv with
    | false => exact .inr (.inl ⟨rfl, rfl, rfl⟩)
    | true => exact .inr (.inr ⟨rfl, rfl, rfl⟩)

/-- The four effects a bus write can have. -/
theorem busWrite_cases (s : State) (off : Offset) (size : Nat) (w : Word) :
    busWrite s off size w = .refused ∨ busWrite s off size w = .operation ∨
    busWrite s off size w = .stored (s.writeRaw w) ∨ busWrite s off size w = .stored (s.writeValLow w) ∨
    busWrite s off size w = .stored (s.writeValHigh w) := by
  unfold busWrite
  split <;> simp

/-- Everything the serving of one move can be. -/
theorem serveMove_cases (m : HostMove) (s : State) :
    (m = .reset ∧ serveMove m s = .served s.resetBlock) ∨
    (∃ off size d, m = .read off size ∧ busRead s off size = some d ∧ serveMove m s = .served (s.respond (.data d))) ∨
    serveMove m s = .served s.refuseAccess ∨
    (∃ w, serveMove m s = .served ((s.writeRaw w).respond .done)) ∨
    (∃ w, serveMove m s = .served ((s.writeValLow w).respond .done)) ∨
    (∃ w, serveMove m s = .served ((s.writeValHigh w).respond .done)) ∨
    (∃ off size w, m = .write off size w ∧ busWrite s off size w = .operation ∧ serveMove m s = takeOpWord w s) := by
  cases m with
  | reset => exact .inl ⟨rfl, rfl⟩
  | read off size =>
    simp only [serveMove]
    cases h : busRead s off size with
    | some d => exact .inr (.inl ⟨off, size, d, rfl, h, rfl⟩)
    | none => exact .inr (.inr (.inl rfl))
  | write off size w =>
    simp only [serveMove]
    rcases busWrite_cases s off size w with h | h | h | h | h <;> rw [h]
    · exact .inr (.inr (.inl rfl))
    · exact .inr (.inr (.inr (.inr (.inr (.inr ⟨off, size, w, rfl, h, rfl⟩)))))
    · exact .inr (.inr (.inr (.inl ⟨w, rfl⟩)))
    · exact .inr (.inr (.inr (.inr (.inl ⟨w, rfl⟩))))
    · exact .inr (.inr (.inr (.inr (.inr (.inl ⟨w, rfl⟩)))))

/-- An operation word runs the operation it decodes to, or the pseudo-operation "illegal". -/
theorem takeOpWord_cases (w : Word) (s : State) :
    (∃ i, decode w = .ok i ∧ takeOpWord w s = .run i s) ∨
    (∃ e, decode w = .error e ∧ takeOpWord w s = .served (s.illegalOp.respond .done)) := by
  unfold takeOpWord
  cases h : decode w with
  | ok i => exact .inl ⟨i, rfl, rfl⟩
  | error e => exact .inr ⟨e, rfl, rfl⟩

/-- A Motor call is one issue of moves, then, if no error was read, the encode. -/
theorem motorCall_of_issue (c t : Byte) (v : F64) (s u : State)
    (h : issue (opMove (.tidSet t) :: msgValMoves c v ++ [readStatusMove]) s = .next u) :
    motorCall c t v s = if lasterrRead u = some 0 then motorEncode u else .next (u, lasterrRead u) := by
  unfold motorCall; rw [h]

/-- `issue` runs a concatenation one part after the other. -/
theorem issue_append (ms ns : List HostMove) (s t : State) (h : issue ms s = .next t) :
    issue (ms ++ ns) s = issue ns t := by
  induction ms generalizing s with
  | nil => cases h; rfl
  | cons m ms ih =>
    simp only [List.cons_append, issue] at h ⊢
    split at h
    · next u hu => exact ih u h
    · cases h
    · cases h

end Sys2Proof.Machine
end

