-- ==== Sys2Proof/Laws/Exec.lean ====
section
/-! SUPPORT. Everything an operation can leave, and everything a step can leave: one inversion lemma each. -/

namespace Sys2Proof.Machine

/-- A submission leaves the event with the answer in `OUT`, and concludes as the answer says. -/
theorem submitAndConclude_eq (s : State) (ev : SinkAnswer → OutEvent) :
    ∃ (a : SinkAnswer) (as : List SinkAnswer) (d : Nat), a = s.nextAnswer ∧ s.submitAndConclude ev =
      match a with
      | .ok => { s with out := s.out ++ [ev a], answers := as, draws := d, lasterr := 0 }
      | .err w =>
        { s with
          out := s.out ++ [ev a], answers := as, draws := d
          lasterr := 4, errs := s.errs ||| 0x010, errsEver := s.errsEver ||| 0x010, xerr := w } := by
  have taken : s.answerTaken = { s with answers := s.answerTaken.answers, draws := s.answerTaken.draws } := by
    unfold State.answerTaken; split <;> rfl
  refine ⟨s.nextAnswer, s.answerTaken.answers, s.answerTaken.draws, rfl, ?_⟩
  rcases submitAndConclude_cases s ev with ⟨ha, h⟩ | ⟨w, ha, h⟩ <;>
  · rw [h, ha]
    unfold State.submit
    rw [ha, taken]
    rfl

/-- The frame an encoder submits, as a function of the sink's answer, with what it leaves in `CRC`. -/
inductive Submits (s : State) : Instr → Half → (SinkAnswer → OutEvent) → Prop
  | uart : s.cmd ≤ uartMaxCommand →
      Submits s .encUart (crc16 (uartBody s.cmd s.raw)) (OutEvent.uart (uartFrame s.cmd s.raw))
  | can : s.tidv = true → Submits s .encCan s.crc (OutEvent.can (canId s.cmd s.tid) (canPayload s.raw))

/-- The operations that can end in `MessageIncomplete`, each with the field it misses (R226). -/
inductive Misses (s : State) : Instr → Prop
  | scale : s.cmdv = false → Misses s .scale
  | encUart : s.messageReady = false → Misses s .encUart
  | encCan : s.messageReady = false → Misses s .encCan

/-- Every way an operation can end. -/
inductive ExecCase (s : State) : Instr → State → Prop
  | crcInit : ExecCase s .crcInit { s with crc := crcInitial, lasterr := 0 }
  | crcByte (b : Byte) : ExecCase s (.crcByte b) { s with crc := crcStep s.crc b, lasterr := 0 }
  | selected (b : Byte) : hasCommand Config.cmdtab b = true →
      ExecCase s (.cmdSel b) { s with cmd := b, cmdv := true, lasterr := 0 }
  | badCommand (b : Byte) : hasCommand Config.cmdtab b = false →
      ExecCase s (.cmdSel b)
        { s with lasterr := 6, errs := s.errs ||| 0x040, errsEver := s.errsEver ||| 0x040 }
  | tidSet (b : Byte) : ExecCase s (.tidSet b) { s with tid := b, tidv := true, lasterr := 0 }
  | tidClr : ExecCase s .tidClr { s with tidv := false, lasterr := 0 }
  | scaled (n : Int) : s.cmdv = true → scaleRound s.val (scaleFor Config.cmdtab s.cmd) = some n →
      ExecCase s .scale { s with raw := BitVec.ofInt 32 n, rawv := true, lasterr := 0 }
  | overflow : s.cmdv = true → scaleRound s.val (scaleFor Config.cmdtab s.cmd) = none →
      ExecCase s .scale
        { s with rawv := false, lasterr := 1, errs := s.errs ||| 0x002, errsEver := s.errsEver ||| 0x002 }
  | incomplete (i : Instr) : Misses s i →
      ExecCase s i { s with lasterr := 7, errs := s.errs ||| 0x080, errsEver := s.errsEver ||| 0x080 }
  | cmdIdRange : s.messageReady = true → uartMaxCommand < s.cmd →
      ExecCase s .encUart
        { s with lasterr := 8, errs := s.errs ||| 0x100, errsEver := s.errsEver ||| 0x100 }
  | missingTargetId : s.messageReady = true → s.tidv = false →
      ExecCase s .encCan
        { s with lasterr := 2, errs := s.errs ||| 0x004, errsEver := s.errsEver ||| 0x004 }
  | accepted (i : Instr) (c : Half) (ev : SinkAnswer → OutEvent) (as : List SinkAnswer) (d : Nat) :
      s.messageReady = true → Submits s i c ev → s.nextAnswer = .ok →
      ExecCase s i { s with crc := c, out := s.out ++ [ev .ok], answers := as, draws := d, lasterr := 0 }
  | transportError (i : Instr) (c : Half) (ev : SinkAnswer → OutEvent) (as : List SinkAnswer) (d : Nat) (w : Word) :
      s.messageReady = true → Submits s i c ev → s.nextAnswer = .err w →
      ExecCase s i
        { s with
          crc := c, out := s.out ++ [ev (.err w)], answers := as, draws := d
          lasterr := 4, errs := s.errs ||| 0x010, errsEver := s.errsEver ||| 0x010, xerr := w }
  | errClr : ExecCase s .errClr { s with errs := 0, xerr := 0, lasterr := 0 }

/-- A submission with `c` in `CRC` is one of the two ways an encoder can get as far as submitting. -/
theorem execCase_of_submit (s : State) (i : Instr) (c : Half) (ev : SinkAnswer → OutEvent)
    (ready : s.messageReady = true) (h : Submits s i c ev) :
    ExecCase s i ({ s with crc := c }.submitAndConclude ev) := by
  obtain ⟨a, as, d, ha, e⟩ := submitAndConclude_eq { s with crc := c } ev
  have hn : s.nextAnswer = a := ha.symm
  rw [e]
  cases a with
  | ok => exact .accepted i c ev as d ready h hn
  | err w => exact .transportError i c ev as d w ready h hn

/-- Every operation answers a next state, in one of the ways of `ExecCase`. -/
theorem exec_cases (i : Instr) (s t : State) (h : exec i s = .next t) : ExecCase s i t := by
  cases i with
  | crcInit => cases h; exact .crcInit
  | crcByte b => cases h; exact .crcByte b
  | cmdSel b =>
    cases h
    rcases selectCommand_cases s Config.cmdtab b with ⟨hb, e⟩ | ⟨hb, e⟩ <;> rw [e]
    · exact .selected b hb
    · exact .badCommand b hb
  | tidSet b => cases h; exact .tidSet b
  | tidClr => cases h; exact .tidClr
  | scale =>
    cases h
    rcases scalePayload_cases s Config.cmdtab with ⟨hv, e⟩ | ⟨n, hv, hr, e⟩ | ⟨hv, hr, e⟩ <;> rw [e]
    · exact .incomplete _ (.scale hv)
    · exact .scaled n hv hr
    · exact .overflow hv hr
  | encUart =>
    rcases execEncUart_cases s with ⟨hm, e⟩ | ⟨hm, hc, e⟩ | ⟨hm, hc, e⟩ <;> cases e.symm.trans h
    · exact .incomplete _ (.encUart hm)
    · exact .cmdIdRange hm hc
    · exact execCase_of_submit s _ _ _ hm (.uart hc)
  | encCan =>
    rcases execEncCan_cases s with ⟨hm, e⟩ | ⟨hm, hc, e⟩ | ⟨hm, hc, e⟩ <;> cases e.symm.trans h
    · exact .incomplete _ (.encCan hm)
    · exact .missingTargetId hm hc
    · exact execCase_of_submit s _ _ _ hm (.can hc)
  | errClr => cases h; exact .errClr

/-- Every way a step can end. -/
inductive StepCase (s : State) : State → Prop
  | waits : s.pending = [] → StepCase s s
  | resets (rest : List HostMove) : s.pending = .reset :: rest →
      StepCase s { s with pending := rest }.resetBlock
  | reads (off : Offset) (size : Nat) (d : Word) (rest : List HostMove) : s.pending = .read off size :: rest →
      busRead { s with pending := rest } off size = some d →
      StepCase s ({ s with pending := rest }.respond (.data d))
  | refuses (m : HostMove) (rest : List HostMove) : s.pending = m :: rest → m ≠ .reset →
      (∀ w, m ≠ .write 0x00 4 w) → StepCase s { s with pending := rest }.refuseAccess
  | writesRaw (off : Offset) (size : Nat) (w : Word) (rest : List HostMove) :
      s.pending = .write off size w :: rest → off ≠ 0x00 →
      StepCase s (({ s with pending := rest }.writeRaw w).respond .done)
  | writesValLow (off : Offset) (size : Nat) (w : Word) (rest : List HostMove) :
      s.pending = .write off size w :: rest → off ≠ 0x00 →
      StepCase s (({ s with pending := rest }.writeValLow w).respond .done)
  | writesValHigh (off : Offset) (size : Nat) (w : Word) (rest : List HostMove) :
      s.pending = .write off size w :: rest → off ≠ 0x00 →
      StepCase s (({ s with pending := rest }.writeValHigh w).respond .done)
  | illegal (w : Word) (e : Illegal) (rest : List HostMove) : s.pending = .write 0x00 4 w :: rest →
      decode w = .error e → StepCase s ({ s with pending := rest }.illegalOp.respond .done)
  | operates (w : Word) (i : Instr) (rest : List HostMove) (t : State) : s.pending = .write 0x00 4 w :: rest →
      decode w = .ok i → ExecCase { s with pending := rest } i t → StepCase s (t.respond .done)

/-- A write reaches `OP` exactly at offset 0 with size 4; the data registers are elsewhere. -/
theorem busWrite_inv (s : State) (off : Offset) (size : Nat) (w : Word) :
    (busWrite s off size w = .operation ∧ off = 0x00 ∧ size = 4) ∨
    (busWrite s off size w = .refused ∧ ¬ (off = 0x00 ∧ size = 4)) ∨
    (off ≠ 0x00 ∧ (busWrite s off size w = .stored (s.writeRaw w) ∨
      busWrite s off size w = .stored (s.writeValLow w) ∨ busWrite s off size w = .stored (s.writeValHigh w))) := by
  by_cases hs : size = 4
  · subst hs
    by_cases h0 : off = 0x00
    · subst h0; exact .inl ⟨rfl, rfl, rfl⟩
    · have hne : ∀ r, accessedReg off 4 = some r → r ≠ .op := by
        rintro _ ha rfl
        unfold accessedReg at ha
        split at ha
        · unfold regAt at ha
          split at ha <;> cases ha
          next hz => exact h0 (BitVec.eq_of_toNat_eq hz)
        · cases ha
      unfold busWrite
      split
      · next ha => exact absurd rfl (hne _ ha)
      · exact .inr (.inr ⟨h0, .inl rfl⟩)
      · exact .inr (.inr ⟨h0, .inr (.inl rfl)⟩)
      · exact .inr (.inr ⟨h0, .inr (.inr rfl)⟩)
      · exact .inr (.inl ⟨rfl, fun h => h0 h.1⟩)
  · have : accessedReg off size = none := by simp [accessedReg, hs]
    exact .inr (.inl ⟨by simp [busWrite, this], fun h => hs h.2⟩)

/-- Everything a step can leave. -/
theorem step_cases (s t : State) (h : step s = .next t) : StepCase s t := by
  cases hp : s.pending with
  | nil => simp only [step, fetch, hp, Host.Outcome.next.injEq] at h; exact h ▸ .waits hp
  | cons m rest =>
    simp only [step, fetch, hp] at h
    cases m with
    | reset =>
      simp only [serveMove, Host.Outcome.next.injEq] at h
      exact h ▸ .resets rest hp
    | read off size =>
      simp only [serveMove] at h
      cases hr : busRead { s with pending := rest } off size with
      | some d =>
        simp only [hr, Host.Outcome.next.injEq] at h
        exact h ▸ .reads off size d rest hp hr
      | none =>
        simp only [hr, Host.Outcome.next.injEq] at h
        exact h ▸ .refuses _ rest hp (by simp) (by simp)
    | write off size w =>
      simp only [serveMove] at h
      rcases busWrite_inv { s with pending := rest } off size w with ⟨hb, rfl, rfl⟩ | ⟨hb, hn⟩ | ⟨hn, hb | hb | hb⟩ <;>
        simp only [hb] at h
      · rcases takeOpWord_cases w { s with pending := rest } with ⟨i, hd, e⟩ | ⟨r, hd, e⟩
        · simp only [e] at h
          cases hx : exec i { s with pending := rest } with
          | next u =>
            simp only [hx, completeOpWrite, Host.Outcome.next.injEq] at h
            exact h ▸ .operates w i rest u hp hd (exec_cases i _ u hx)
          | fault r => cases r
          | refused r => simp [hx, completeOpWrite] at h
        · simp only [e, Host.Outcome.next.injEq] at h
          exact h ▸ .illegal w r rest hp hd
      · simp only [Host.Outcome.next.injEq] at h
        refine h ▸ .refuses _ rest hp (by simp) ?_
        intro w' hw
        injection hw with h1 h2
        exact hn ⟨h1, h2⟩
      · simp only [Host.Outcome.next.injEq] at h; exact h ▸ .writesRaw off size w rest hp hn
      · simp only [Host.Outcome.next.injEq] at h; exact h ▸ .writesValLow off size w rest hp hn
      · simp only [Host.Outcome.next.injEq] at h; exact h ▸ .writesValHigh off size w rest hp hn

end Sys2Proof.Machine
end

