-- ==== Sys2Proof/Laws/HostSoftware.lean ====
section
/-! SUPPORT. The special patterns the host software's product can be. -/

namespace Sys2Proof.Machine

@[simp] theorem val64_infPattern (negative : Bool) : val64 (infPattern negative) = .inf := by
  revert negative; decide +kernel

@[simp] theorem infPattern_sign (negative : Bool) : (infPattern negative).getLsbD 63 = negative := by
  revert negative; decide

/-- Whatever the free bits are, the pattern is a NaN. -/
@[simp] theorem val64_nanPattern (b : NanBits) : val64 (nanPattern b) = .nan := by
  have e : expField (nanPattern b) = 2047 := by
    unfold expField nanPattern
    rw [BitVec.extractLsb'_append_eq_of_le (by decide), BitVec.extractLsb'_append_eq_of_add_le (by decide)]
    rfl
  have f : fracField (nanPattern b) = b.payload % (2 ^ 52 - 1) + 1 := by
    unfold fracField nanPattern
    rw [BitVec.extractLsb'_append_eq_of_add_le (by decide)]
    simp
    omega
  unfold val64
  rw [if_pos e, if_neg (by rw [f]; omega)]

/-- Everything one call of a tick can do to the rest of the tick: the loop goes on, and reports it if it failed. -/
theorem issueCalls_cons (c id : Byte) (v : F64) (rest : List (Byte × F64)) (s t u : State) (answer : Option Byte)
    (failed : List (Byte × Option Byte)) (h : motorCall c id v s = .next (t, answer))
    (hr : issueCalls c rest t = .next (u, failed)) :
    issueCalls c ((id, v) :: rest) s = .next (u, if answer = some 0 then failed else (id, answer) :: failed) := by
  simp only [issueCalls, h, hr]

end Sys2Proof.Machine
end

