-- ==== Sys2Proof/Laws/PerInstr.lean ====
section
/-! SUPPORT. Families of statements about an instruction as syntax, one lemma per constructor. -/

namespace Sys2Proof.Laws

/-- The operation word of an instruction matches its own row of R73's table, and has the `zero` field R70 asks for. -/
def RowOfEncoding.Statement (i : Instr) : Prop :=
  (opRow i).selects (encode i) = true ∧ opRow i ∈ opRows ∧ zeroField (encode i) = 0

theorem RowOfEncoding.crcInit : RowOfEncoding.Statement .crcInit := by
  unfold RowOfEncoding.Statement; decide

theorem RowOfEncoding.crcByte (imm8 : Byte) : RowOfEncoding.Statement (.crcByte imm8) := by
  unfold RowOfEncoding.Statement
  revert imm8
  decide +kernel

theorem RowOfEncoding.cmdSel (imm8 : Byte) : RowOfEncoding.Statement (.cmdSel imm8) := by
  unfold RowOfEncoding.Statement
  revert imm8
  decide +kernel

theorem RowOfEncoding.tidSet (imm8 : Byte) : RowOfEncoding.Statement (.tidSet imm8) := by
  unfold RowOfEncoding.Statement
  revert imm8
  decide +kernel

theorem RowOfEncoding.tidClr : RowOfEncoding.Statement .tidClr := by
  unfold RowOfEncoding.Statement; decide

theorem RowOfEncoding.scale : RowOfEncoding.Statement .scale := by
  unfold RowOfEncoding.Statement; decide

theorem RowOfEncoding.encUart : RowOfEncoding.Statement .encUart := by
  unfold RowOfEncoding.Statement; decide

theorem RowOfEncoding.encCan : RowOfEncoding.Statement .encCan := by
  unfold RowOfEncoding.Statement; decide

theorem RowOfEncoding.errClr : RowOfEncoding.Statement .errClr := by
  unfold RowOfEncoding.Statement; decide

end Sys2Proof.Laws
end

