-- ==== Sys2Proof/Laws/Scaler.lean ====
section
/-! SUPPORT. What the scaler does whatever the block's table is: the value zero always scales, an infinity never does, and
the row `SetRpm` always exists. -/

namespace Sys2Proof.Machine

/-- A pattern whose exponent field is not 2047 is a rational. -/
theorem val64_of_finite (u : F64) (h : u.extractLsb' 52 11 ≠ 2047) : ∃ q, val64 u = .fin q := by
  have : expField u ≠ 2047 := fun e => h (BitVec.eq_of_toNat_eq e)
  unfold val64
  rw [if_neg this]
  exact ⟨_, rfl⟩

/-- The value 0 scales to 0 with every finite scale. -/
theorem scaleRound_zero (sc : F64) (h : sc.extractLsb' 52 11 ≠ 2047) : scaleRound 0 sc = some 0 := by
  obtain ⟨q, hq⟩ := val64_of_finite sc h
  have hz : val64 0 = .fin 0 := by decide +kernel
  have hr : roundToI32 0 = some 0 := by decide +kernel
  simp only [scaleRound, hz, hq, zero_mul, rne64, if_true, Option.bind_some, hr]

/-- An infinite value never scales. -/
theorem scaleRound_inf (sc : F64) : scaleRound 0x7FF0000000000000 sc = none := by
  have hz : val64 0x7FF0000000000000 = .inf := by decide +kernel
  simp only [scaleRound, hz]

/-- Every table has a row with the id 3 (R111 conditions 2 and 3). -/
theorem exists_rpm_row (tab : CmdTab) : ∃ r ∈ tab.rows, r.id = 3 := by
  obtain ⟨r, hr, hn⟩ := List.mem_map.1 (tab.wf.2.1 .setRpm (by simp))
  exact ⟨r, hr, tab.wf.2.2.1 r hr hn⟩

/-- The scale of a row is finite (R111 condition 4), so the value 0 scales with it. -/
theorem scaleRound_zero_row (tab : CmdTab) (r : CmdRow) (hr : r ∈ tab.rows) : scaleRound 0 r.scale = some 0 :=
  scaleRound_zero _ (tab.wf.2.2.2.1 r hr)

end Sys2Proof.Machine
end

