-- ==== Sys2Proof/Tests/Slice0.lean ====
section
/-! SUPPORT. Small tests against the spec's printed values (30_encoding.md, 95_test_vectors.md), and for every statement with
hypotheses a witness that they can be met together. -/

namespace Sys2Proof.Tests

open Sys2Proof Sys2Proof.Machine

/-! ## Well-formedness: one list of rows refused for each condition of R111 -/

/-- The rows of R112 with the row at position `k` replaced. -/
def vescWith (k : Nat) (r : CmdRow) : List CmdRow := cmdtabVesc.rows.set k r

theorem test_wf_accepts_default_table : cmdRowsWf cmdtabVesc.rows := by decide
theorem test_wf_refuses_repeated_id : ¬ idsDistinct (vescWith 2 ⟨.other "SetCurrentBrake", 1, 0⟩) := by decide
theorem test_wf_refuses_missing_name : ¬ namesPresent (vescWith 4 ⟨.other "SetAngle", 4, 0⟩) := by decide
theorem test_wf_refuses_other_rpm_id : ¬ rpmIsThree (vescWith 3 ⟨.setRpm, 9, 0⟩) := by decide
theorem test_wf_refuses_infinite_scale : ¬ scalesFinite (vescWith 0 ⟨.setDutyCycle, 0, 0x7FF0000000000000⟩) := by decide
theorem test_wf_refuses_repeated_name : ¬ namesDistinct (vescWith 2 ⟨.setRpm, 2, 0⟩) := by decide

/-! ## Decoding: words put together from the fields of R70 and the opcodes of R73 -/

theorem test_decode_crc :
    decode 0b00000000000000000000000000000001 = .ok .crcInit ∧
    decode 0b00000000000000000011000100000010 = .ok (.crcByte 0x31) := by decide
theorem test_decode_message :
    decode 0b00000000000000000000001100010000 = .ok (.cmdSel 3) ∧
    decode 0b00000000000000000000110000010001 = .ok (.tidSet 12) ∧
    decode 0b00000000000000000000000000010010 = .ok .tidClr := by decide
theorem test_decode_scale : decode 0b00000000000000000000000000100000 = .ok .scale := by decide
theorem test_decode_encoders :
    decode 0b00000000000000000000000000110000 = .ok .encUart ∧
    decode 0b00000000000000000000000000110001 = .ok .encCan := by decide
theorem test_decode_system : decode 0b00000000000000000000000001000000 = .ok .errClr := by decide
theorem test_decode_refuses :
    decode 0x00000000 = .error .opcode ∧ decode 0x00000003 = .error .opcode ∧
    decode 0x00000120 = .error .immediate ∧ decode 0x00010001 = .error .upperBits ∧
    decode 0xFFFF0002 = .error .upperBits := by decide
theorem test_decode_table_word : decodeTableWord 32 0x0000FF11 = some (.tidSet 255) := by decide

/-! ## States used below -/

/-- After reset, with one move pending. -/
def withMove (m : HostMove) : State := { State.reset with pending := [m] }

/-- A complete Message, and the answer the sink will give. -/
def ready (cmd tid : Byte) (raw : Word) (a : SinkAnswer) : State :=
  { State.reset with cmd := cmd, cmdv := true, tid := tid, tidv := true, raw := raw, rawv := true, answers := [a] }

/-- The command 3, which every table has, and a value. -/
def valued (v : F64) : State := { State.reset with cmd := 3, cmdv := true, val := v, raw := 5, rawv := true }

/-- The outcome is the next state `t`, as a computation. -/
def leaves (o : Host.Outcome State Fault Refusal) (t : State) : Bool :=
  match o with
  | .next u => decide (u = t)
  | .fault _ => false
  | .refused _ => false

/-! ## CRC (D-CRC) -/

theorem test_crc_vectors :
    crc16 [] = 0x0205 ∧ crc16 [0x00] = 0x2542 ∧ crc16 [0x80] = 0xB4CA ∧ crc16 [0xFF] = 0x3BB2 ∧
    crc16 [0x08, 0x00, 0x00, 0x04, 0xD3] = 0xCD31 ∧ crcStep 0xFAEB 0x32 = 0xB344 := by decide +kernel
theorem test_crc_operations :
    exec .crcInit { State.reset with crc := 0xBF1A } = .next State.reset ∧
    exec (.crcByte 1) { State.reset with crc := 0 } = .next { State.reset with crc := 0x1021 } := ⟨rfl, rfl⟩

/-! ## Command table and Message (D-CMD) -/

theorem test_cmd_sel_under_default_table :
    State.reset.selectCommand cmdtabVesc 0 = { State.reset with cmd := 0, cmdv := true } ∧
    State.reset.selectCommand cmdtabVesc 9 =
      { State.reset with lasterr := 6, errs := 0x040, errsEver := 0x040 } := by decide
theorem test_status_after_bad_command :
    statusWord ({ State.reset with cmd := 3, cmdv := true }.selectCommand cmdtabVesc 9) = 0x00000601 := by decide
theorem test_tid_set_255 : exec (.tidSet 255) State.reset = .next { State.reset with tid := 0xFF, tidv := true } := rfl
theorem test_tid_clr_keeps_bits :
    exec .tidClr { State.reset with tid := 0x0C, tidv := true } = .next { State.reset with tid := 0x0C } := rfl
theorem test_status_fields :
    statusWord { State.reset with tidv := true } = 0x00000002 ∧ statusWord { State.reset with rawv := true } = 0x00000004 ∧
    statusLasterr 0x00000601 = 6 := by decide

/-! ## Scaler (D-SCALE) -/

theorem test_scale_ties :
    scaleRound 0x40934A0000000000 0x3FF0000000000000 = some 1235 ∧
    scaleRound 0x4093460000000000 0x3FF0000000000000 = some 1234 ∧
    scaleRound 0xC0934A0000000000 0x3FF0000000000000 = some (-1235) ∧
    scaleRound 0x3FDFFFFFFFFFFFFF 0x3FF0000000000000 = some 0 := by decide +kernel
theorem test_scale_bounds :
    scaleRound 0x40A0C6F7A0945F9E 0x412E848000000000 = some 2147483647 ∧
    scaleRound 0x40A0C6F7A0B5ED8D 0x412E848000000000 = none ∧
    scaleRound 0x7FE1CCF385EBC8A0 0x7FE1CCF385EBC8A0 = none ∧
    scaleRound 0x0000000000000001 0x3FF0000000000000 = some 0 := by decide +kernel
/-- R134 by hand: `2^(-1023) * 2^1023 = 1`, where R141's sentence on subnormal values would have 0 (log 23). The largest
subnormal value with the scale `2^1021` still gives 0. -/
theorem test_scale_subnormal_value :
    scaleRound 0x0008000000000000 0x7FE0000000000000 = some 1 ∧
    scaleRound 0x000FFFFFFFFFFFFF 0x7FC0000000000000 = some 0 := by decide +kernel
theorem test_scale_operation :
    State.scalePayload { State.reset with cmd := 3, cmdv := true, val := 0x40934A0000000000 } cmdtabVesc =
      { State.reset with cmd := 3, cmdv := true, val := 0x40934A0000000000, raw := 0x4D3, rawv := true } ∧
    State.scalePayload (valued 0x41E65A0BC0000000) cmdtabVesc =
      { valued 0x41E65A0BC0000000 with rawv := false, lasterr := 1, errs := 0x002, errsEver := 0x002 } := by
  decide +kernel

/-! ## The host software's product (R201): IEEE 754's rules for signs, overflow, infinities and NaNs -/

theorem test_host_product_finite :
    f64Mul 0xBFF0000000000000 0x3FC999999999999A = 0xBFC999999999999A ∧
    f64Mul 0x8000000000000000 0x4000000000000000 = 0x8000000000000000 := by decide +kernel
theorem test_host_product_special :
    f64Mul 0x7FE1CCF385EBC8A0 0xFFE1CCF385EBC8A0 = 0xFFF0000000000000 ∧
    f64Mul 0xFFF0000000000000 0xBFF0000000000000 = 0x7FF0000000000000 ∧
    val64 (f64Mul 0x7FF0000000000000 0x8000000000000000) = .nan := by
  refine ⟨by decide +kernel, by decide +kernel, ?_⟩
  have hi : val64 0x7FF0000000000000 = .inf := by decide +kernel
  have hz : val64 0x8000000000000000 = .fin 0 := by decide +kernel
  simp only [f64Mul, hi, hz, infTimes, if_true, val64_nanPattern]

/-! ## UART and CAN (D-UART, D-CAN) -/

theorem test_uart_frames :
    uartFrame 3 0x000004D3 = [0x02, 0x05, 0x08, 0x00, 0x00, 0x04, 0xD3, 0xCD, 0x31, 0x03] ∧
    uartFrame 0xFA 0x00000001 = [0x02, 0x05, 0xFF, 0x00, 0x00, 0x00, 0x01, 0xB2, 0x48, 0x03] := by decide +kernel
theorem test_enc_uart_transport_error :
    leaves (exec .encUart (ready 3 12 0x4D3 (.err 0xDEAD0001)))
      { ready 3 12 0x4D3 (.err 0xDEAD0001) with
        answers := [], crc := 0xCD31, xerr := 0xDEAD0001, lasterr := 4, errs := 0x010, errsEver := 0x010
        out := [.uart [0x02, 0x05, 0x08, 0x00, 0x00, 0x04, 0xD3, 0xCD, 0x31, 0x03] (.err 0xDEAD0001)] } = true := by
  decide +kernel
theorem test_can_payloads :
    canPayload 0x000000FF = [0xFF] ∧ canPayload 0x00010005 = [0x01, 0x00, 0x05] ∧
    canPayload 0x00FFFFFF = [0xFF, 0xFF, 0xFF] ∧ canPayload 0x01000000 = [0x01, 0x00, 0x00, 0x00] := by decide
theorem test_enc_can_submits :
    exec .encCan (ready 3 63 0x8CA .ok) = .next
      { ready 3 63 0x8CA .ok with answers := [], out := [.can 0x33F [0x08, 0xCA] .ok] } := rfl

/-! ## Error record and bus (D-SYS) -/

theorem test_err_clr :
    exec .errClr { State.reset with errs := 0x012, xerr := 0xDEAD0001, lasterr := 4 } = .next State.reset := rfl
theorem test_read_op_is_refused :
    step (withMove (.read 0x00 4)) =
      .next { State.reset with errs := 0x200, errsEver := 0x200, resps := [.busFault] } := rfl
theorem test_write_crc_is_refused :
    step (withMove (.write 0x10 4 0)) =
      .next { State.reset with errs := 0x200, errsEver := 0x200, resps := [.busFault] } := rfl
theorem test_write_raw :
    step (withMove (.write 0x1C 4 0xFFFFFFFF)) =
      .next { State.reset with raw := 0xFFFFFFFF, rawv := true, resps := [.done] } := rfl
theorem test_first_step_runs_placed_word :
    step (State.reset.withFetchWord 32 0x00003102) = .next { State.reset with crc := 0x0330, resps := [.done] } := rfl
theorem test_motor_reads_lasterr :
    lasterrRead { State.reset with resps := [.done, .data 0x00000607] } = some 6 := rfl

/-! ## Witnesses: the hypotheses of each statement can be met together -/

theorem test_witness_EncodeOfDecodedWordIsTheWord : decode 0x0000FF02 = .ok (.crcByte 0xFF) := by decide

theorem test_witness_IllegalWordRecordsIllegalOpOnly :
    (withMove (.write 0x00 4 0x00000120)).pending = .write 0x00 4 0x00000120 :: [] ∧
    decode 0x00000120 = .error .immediate := ⟨rfl, by decide⟩

theorem test_witness_StepExecutesTheDecodedInstruction :
    (withMove (.write 0x00 4 0x0000FF11)).pending = .write 0x00 4 0x0000FF11 :: [] ∧
    decode 0x0000FF11 = .ok (.tidSet 0xFF) := ⟨rfl, by decide⟩

theorem test_witness_StepServesOneMoveAndAnswersItOnce :
    State.reset.pending = [] ∧ (withMove .reset).pending = .reset :: [] ∧
    (withMove (.read 0x04 4)).pending = .read 0x04 4 :: [] ∧ HostMove.read 0x04 4 ≠ .reset := by decide

theorem test_witness_RefusedAccessSetsOnlyTheBusBit :
    (withMove (.read 0x00 4)).pending = .read 0x00 4 :: [] ∧
    (∀ off ∈ [(0x00 : Offset), 0x06, 0x28, 0x3C],
      off.toNat ∉ [0x04, 0x08, 0x0C, 0x10, 0x14, 0x18, 0x1C, 0x20, 0x24]) ∧
    (withMove (.write 0x18 4 0)).pending = .write 0x18 4 0 :: [] ∧
    (∀ off ∈ [(0x04 : Offset), 0x18, 0x1D, 0x28], off.toNat ∉ [0x00, 0x1C, 0x20, 0x24]) := by decide

theorem test_witness_ReadAnswersTheRegisterAndChangesNothing :
    step (withMove (.read 0x10 4)) = .next { State.reset with resps := [.data 0x00000205] } ∧
    step { State.reset with pending := [.read 0x24 4], val := 0x4093460000000001 } =
      .next { State.reset with val := 0x4093460000000001, resps := [.data 0x40934600] } ∧
    step { State.reset with pending := [.read 0x04 4], rawv := true, lasterr := 8 } =
      .next { State.reset with rawv := true, lasterr := 8, resps := [.data 0x00000804] } := ⟨rfl, rfl, rfl⟩

theorem test_witness_WriteOfRawStoresAndValidates :
    (withMove (.write 0x1C 4 7)).pending = .write 0x1C 4 7 :: [] := rfl

theorem test_witness_ValIsWrittenByHalves :
    step (withMove (.write 0x20 4 0xFFFFFFFF)) = .next { State.reset with val := 0x00000000FFFFFFFF, resps := [.done] } ∧
    step (withMove (.write 0x24 4 0xFFFFFFFF)) = .next { State.reset with val := 0xFFFFFFFF00000000, resps := [.done] } :=
  ⟨rfl, rfl⟩

theorem test_witness_OnlyOperationsAndResetTouchLasterrAndOut :
    step (withMove (.read 0x18 4)) = .next { State.reset with resps := [.data 0] } ∧
    (∀ w, (withMove (.read 0x18 4)).pending.head? ≠ some (.write 0x00 4 w)) ∧
    (withMove (.read 0x18 4)).pending.head? ≠ some .reset :=
  ⟨rfl, fun _ => by simp [withMove], by decide⟩

theorem test_witness_OnlyThreeOperationsWriteCrc :
    exec (.crcByte 0x31) State.reset = .next { State.reset with crc := 0x0330 } ∧ (0x0330 : Half) ≠ State.reset.crc ∧
    (ready 0xFA 0 1 .ok).cmdv = true ∧ (ready 0xFA 0 1 .ok).rawv = true ∧ (ready 0xFA 0 1 .ok).cmd.toNat ≤ 0xFA :=
  ⟨rfl, by decide, rfl, rfl, by decide⟩

theorem test_witness_CmdSelSelectsOrReportsBadCommand :
    (∃ r ∈ cmdtabVesc.rows, r.id = 4) ∧ (∀ r ∈ cmdtabVesc.rows, r.id ≠ 5) ∧ ∃ r ∈ Config.cmdtab.rows, r.id = 3 :=
  ⟨by decide, by decide, exists_rpm_row _⟩

theorem test_witness_TidClrRemovesTheTargetId :
    (∃ t, exec .tidClr (ready 0xFA 12 5 .ok) = .next t) ∧ (ready 0xFA 12 5 .ok).cmdv = true ∧
    (ready 0xFA 12 5 .ok).rawv = true ∧ (ready 0xFA 12 5 .ok).cmd.toNat ≤ 0xFA := ⟨⟨_, rfl⟩, rfl, rfl, by decide⟩

theorem test_witness_InvalidTargetIdIsNotRead :
    State.reset.tidv = false ∧ exec .encCan State.reset =
      .next { State.reset with lasterr := 7, errs := 0x080, errsEver := 0x080 } ∧ ∀ b, Instr.encCan ≠ .tidSet b :=
  ⟨rfl, rfl, fun _ => by simp⟩

theorem test_witness_EncodersLeaveTheMessage : ∃ t, exec .encCan (ready 3 12 5 .ok) = .next t := ⟨_, rfl⟩

/-- The value 0 scales under every table. -/
theorem test_witness_ScaleStoresThePayloadOrReports_payload :
    ∃ r ∈ Config.cmdtab.rows, (valued 0).cmdv = true ∧ r.id = (valued 0).cmd ∧
      scaleRound (valued 0).val r.scale = some 0 := by
  obtain ⟨r, hr, h⟩ := exists_rpm_row Config.cmdtab
  exact ⟨r, hr, rfl, h, scaleRound_zero_row _ r hr⟩

/-- An infinity scales under no table; without a command the operation reports so. -/
theorem test_witness_ScaleStoresThePayloadOrReports_errors :
    (∃ r ∈ Config.cmdtab.rows, (valued 0x7FF0000000000000).cmdv = true ∧ r.id = (valued 0x7FF0000000000000).cmd ∧
      scaleRound (valued 0x7FF0000000000000).val r.scale = none) ∧ State.reset.cmdv = false := by
  obtain ⟨r, hr, h⟩ := exists_rpm_row Config.cmdtab
  exact ⟨⟨r, hr, rfl, h, scaleRound_inf _⟩, rfl⟩

theorem test_witness_FailedScaleBlocksTheEncoders :
    ∃ t, exec .scale (valued 0x7FF0000000000000) = .next t ∧ t.lasterr = 1 := by
  rcases scalePayload_cases (valued 0x7FF0000000000000) Config.cmdtab with ⟨h, -⟩ | ⟨n, -, h, -⟩ | ⟨-, -, e⟩
  · cases h
  · rw [show (valued 0x7FF0000000000000).val = 0x7FF0000000000000 from rfl, scaleRound_inf] at h; cases h
  · exact ⟨_, congrArg Host.Outcome.next e, rfl⟩

theorem test_witness_NonFiniteInputsOverflow :
    (0x7FF0000000000000 : F64).extractLsb' 52 11 = 2047 ∧ (0xFFFFFFFFFFFFFFFF : F64).extractLsb' 52 11 = 2047 := by
  decide

theorem test_witness_ScaleRangeBoundaries :
    val64 0x41DFFFFFFFC00000 = .fin 2147483647 ∧ val64 0x3FF0000000000000 = .fin 1 ∧
    rne64 (2147483647 * 1) = some 2147483647 ∧ roundToI32 (-2147483648) = some (-2147483648) := by decide +kernel

theorem test_witness_Rne64FixesBinary64ValuesAndExtremes :
    (∃ q, val64 0x0000000000000001 = .fin q) ∧ |(0 : Rat)| < (2 : Rat) ^ (-1022 : Int) ∧ rne64 0 = some 0 ∧
    rne64 (pow2 1024) = none := by
  refine ⟨⟨_, rfl⟩, by positivity, by decide +kernel, by decide +kernel⟩

/-- A midpoint, which goes to the even neighbour, on both sides of an odd one; and the midpoint where overflow starts. -/
theorem test_witness_Rne64FixesBinary64ValuesAndExtremes_ties :
    val64 0x3FF0000000000000 = .fin 1 ∧ val64 0x3FF0000000000001 = .fin (1 + 1 / 2 ^ 52) ∧
    rne64 (1 + 1 / 2 ^ 53) = some 1 ∧ |(1 + 1 / 2 ^ 53 : Rat) - (1 + 1 / 2 ^ 52)| = |(1 + 1 / 2 ^ 53 : Rat) - 1| ∧
    rne64 (1 + 3 / 2 ^ 53) = some (1 + 2 / 2 ^ 52) ∧ rne64 (2 ^ 1024 - 2 ^ 970) = none ∧
    (rne64 (2 ^ 1024 - 2 ^ 970 - 1)).isSome = true := by
  refine ⟨by decide +kernel, by decide +kernel, by decide +kernel, ?_, by decide +kernel, by decide +kernel,
    by decide +kernel⟩
  norm_num [abs_of_neg, abs_of_pos]

theorem test_witness_ExactProductsAreRoundedOnce :
    val64 0xC000000000000000 = .fin (-2) ∧ val64 0x3FF0000000000000 = .fin 1 ∧ (-2 * 1 : Rat) = ((-2 : Int) : Rat) ∧
    |(-2 : Int)| < 2 ^ 53 ∧ val64 0xC000000000000000 = .fin (-2 * 1) := by
  refine ⟨by decide +kernel, by decide +kernel, by norm_num, by norm_num, by decide +kernel⟩

theorem test_witness_ScaleRoundIsMonotone :
    val64 0xC000000000000000 = .fin (-2) ∧ val64 0x3FF0000000000000 = .fin 1 ∧ (-2 : Rat) ≤ 1 ∧ (0 : Rat) ≤ 1 ∧
    scaleRound 0xC000000000000000 0x3FF0000000000000 = some (-2) ∧
    scaleRound 0x3FF0000000000000 0x3FF0000000000000 = some 1 := by decide +kernel

theorem test_witness_ScaleRoundIsOdd :
    scaleRound 0x3FE0000000000000 0x3FF0000000000000 = some 1 ∧ (1 : Int) ≠ -2 ^ 31 ∧
    (0x3FE0000000000000 ^^^ 0x8000000000000000 : F64) = 0xBFE0000000000000 ∧
    scaleRound 0xBFE0000000000000 0x3FF0000000000000 = some (-1) := by decide +kernel

theorem test_witness_ScaleRoundErrorBound :
    val64 0x3FE0000000000000 = .fin (1 / 2) ∧ val64 0x3FF0000000000000 = .fin 1 ∧
    scaleRound 0x3FE0000000000000 0x3FF0000000000000 = some 1 := by decide +kernel

theorem test_witness_UartFrameLayout : (0xFA : Byte).toNat ≤ 0xFA := by decide

theorem test_witness_UartFrameIsValidAndInjective : uartFrame 0xFF 0 = uartFrame 0xFF 0 := rfl

theorem test_witness_EncUartReportsOrSubmits :
    State.reset.cmdv = false ∧ (ready 0xFB 0 1 .ok).cmdv = true ∧ (ready 0xFB 0 1 .ok).rawv = true ∧
    0xFA < (ready 0xFB 0 1 .ok).cmd.toNat ∧ (ready 0xFA 0 1 .ok).cmdv = true ∧ (ready 0xFA 0 1 .ok).rawv = true ∧
    (ready 0xFA 0 1 .ok).cmd.toNat ≤ 0xFA := by decide

theorem test_witness_EncUartExactNextState :
    (ready 0xFA 0 1 .ok).answers = .ok :: [] ∧ (ready 0xFA 0 1 .ok).draws = 0 ∧
    { ready 0xFA 0 1 .ok with answers := [] }.answers = [] := by decide

theorem test_witness_UartSubmissionIgnoresTheRest :
    (ready 3 99 5 .ok).cmd = (ready 3 12 5 .ok).cmd ∧ (ready 3 99 5 .ok).answers = (ready 3 12 5 .ok).answers ∧
    (∃ t, exec .encUart (ready 3 12 5 .ok) = .next t) ∧ ∃ t', exec .encUart (ready 3 99 5 .ok) = .next t' :=
  ⟨rfl, rfl, ⟨_, rfl⟩, ⟨_, rfl⟩⟩

theorem test_witness_CanPayloadTrimsLeadingZeroBytes :
    (canPayload 0xFF).length = 1 ∧ (canPayload 0x100).length = 2 ∧ (canPayload 0xFFFF).length = 2 ∧
    (canPayload 0x10000).length = 3 ∧ (canPayload 0xFFFFFF).length = 3 ∧ (canPayload 0x1000000).length = 4 := by decide

theorem test_witness_CanFrameIsReversible : canId 0xFF 0xFF = canId 0xFF 0xFF ∧ canPayload 0 = canPayload 0 := ⟨rfl, rfl⟩

theorem test_witness_EncCanReportsOrSubmits :
    State.reset.rawv = false ∧ { ready 3 0 1 .ok with tidv := false }.cmdv = true ∧
    { ready 3 0 1 .ok with tidv := false }.rawv = true ∧ { ready 3 0 1 .ok with tidv := false }.tidv = false ∧
    (ready 0xFF 0xFF 1 .ok).cmdv = true ∧ (ready 0xFF 0xFF 1 .ok).rawv = true ∧ (ready 0xFF 0xFF 1 .ok).tidv = true := by
  decide

theorem test_witness_EncCanExactNextState :
    (ready 3 12 5 (.err 1)).tidv = true ∧ (ready 3 12 5 (.err 1)).answers = .err 1 :: [] ∧
    (ready 3 12 5 (.err 1)).draws = 0 := by decide

theorem test_witness_EachOperationEndsWithItsCodes : ∃ t, exec .encUart (ready 0xFF 0 1 .ok) = .next t ∧ t.lasterr = 8 :=
  ⟨_, rfl, rfl⟩

/-- A local error, and a transport error, both with a nonzero code; the overflow is `FailedScaleBlocksTheEncoders`'s. -/
theorem test_witness_FailingOperationChangesOnlyTheRecord :
    (∃ t, exec .encCan State.reset = .next t ∧ t.lasterr = 7) ∧
    ∃ t, exec .encUart (ready 3 12 5 (.err 9)) = .next t ∧ t.lasterr = 4 := ⟨⟨_, rfl, rfl⟩, ⟨_, rfl, rfl⟩⟩

theorem test_witness_ErrClrAloneClearsTheRecord :
    ∃ t, step { withMove (.write 0x00 4 0x00000040) with errs := 0x3FF } = .next t ∧ (0x3FF : BitVec 10) &&& t.errs ≠ 0x3FF :=
  ⟨_, rfl, by decide⟩

theorem test_witness_EncodersSubmitExactlyOnce :
    ∃ t, exec .encCan (ready 3 12 0 (.err 9)) = .next t ∧ t.out = [.can 0x30C [0x00] (.err 9)] := ⟨_, rfl, rfl⟩

theorem test_witness_ResetMoveRestoresTheRegisters : (withMove .reset).pending = .reset :: [] := rfl

theorem test_witness_SelectedCommandHasExactlyOneRow :
    ∃ t, step { withMove (.read 0x04 4) with cmd := 3, cmdv := true } = .next t ∧ t.cmdv = true ∧
      isSelectable Config.cmdtab t.cmd :=
  ⟨_, rfl, rfl, selectable_of_hasCommand _ _ ((hasCommand_iff _ _).2 (exists_rpm_row _))⟩

/-- A state with an error recorded, a frame refused and a command selected has the invariant, and steps. -/
theorem test_witness_StepKeepsTheInvariant :
    { withMove (.write 0x00 4 0x00000040) with
      cmd := 3, cmdv := true, lasterr := 4, errs := 0x010, errsEver := 0x010, xerr := 9
      out := [OutEvent.can 0x30C [0x05] (.err 9)] }.Inv ∧
    ∃ t, step { withMove (.write 0x00 4 0x00000040) with
      cmd := 3, cmdv := true, lasterr := 4, errs := 0x010, errsEver := 0x010, xerr := 9
      out := [OutEvent.can 0x30C [0x05] (.err 9)] } = .next t := by
  refine ⟨⟨fun _ => ?_, rfl, rfl, by decide, fun _ => rfl, fun _ => ⟨_, rfl, rfl⟩, rfl, ?_⟩, ⟨_, rfl⟩⟩
  · exact selectable_of_hasCommand _ _ ((hasCommand_iff _ _).2 (exists_rpm_row _))
  · intro e he; cases List.mem_singleton.1 he; rfl

theorem test_witness_MotorCallSubmitsTheScaledPayload :
    ∃ r ∈ Config.cmdtab.rows, r.id = 3 ∧ scaleRound 0 r.scale = some 0 ∧
      scaleRound 0x7FF0000000000000 r.scale = none := by
  obtain ⟨r, hr, h⟩ := exists_rpm_row Config.cmdtab
  exact ⟨r, hr, h, scaleRound_zero_row _ r hr, scaleRound_inf _⟩

/-- A tick of two calls, of which one scales under every table and one under none. -/
theorem test_witness_MixerSendsToEveryMotor :
    ∃ r ∈ Config.cmdtab.rows, r.id = 3 ∧
      scaleRound ([((63 : Byte), (0 : F64)), (74, 0x7FF0000000000000)][0]).2 r.scale = some 0 ∧
      scaleRound ([((63 : Byte), (0 : F64)), (74, 0x7FF0000000000000)][1]).2 r.scale = none := by
  obtain ⟨r, hr, h⟩ := exists_rpm_row Config.cmdtab
  exact ⟨r, hr, h, scaleRound_zero_row _ r hr, scaleRound_inf _⟩

theorem test_witness_MixerFollowsTheMasks :
    (∀ p ∈ [MotorPair.mk 63 74 .left .left], p.mask1 = .left ∧ p.mask2 = .left) ∧
    [MotorPair.mk 4 87 .left .right, .mk 5 6 .right .left][1]? = some (.mk 5 6 .right .left) := by decide

theorem test_witness_HostProductIsTheIeeeProduct :
    (val64 0x4000000000000000 = .fin 2 ∧ val64 0xC000000000000000 = .fin (-2) ∧ rne64 (2 * -2) = some (-4)) ∧
    (val64 0x7FE0000000000000 = .fin (pow2 1023) ∧ rne64 (pow2 1023 * pow2 1023) = none) ∧
    val64 0xFFF0000000000000 = .inf ∧ val64 0x7FF0000000000001 = .nan ∧ val64 0x8000000000000000 = .fin 0 := by
  decide +kernel

end Sys2Proof.Tests
end

section
/-! The block is never stuck: every operation, every fetched item and so every step answers a next state (00_scope.md R16). -/

namespace Sys2Proof.Machine

/-- All nine operations end by completing; an error is a completion code, no stop (R224). -/
theorem exec_next (i : Instr) (s : State) : ∃ t, exec i s = .next t := by
  cases i with
  | crcInit | crcByte | cmdSel | tidSet | tidClr | scale | encUart | encCan | errClr => exact ⟨_, rfl⟩

@[simp] theorem completeOpWrite_next (t : State) : completeOpWrite (.next t) = .next (t.respond .done) := rfl

theorem step_of_idle {s : State} (h : fetch s = .idle) : step s = .next s := by
  rw [step, h]

theorem step_of_served {s t : State} (h : fetch s = .served t) : step s = .next t := by
  rw [step, h]

theorem step_of_run {s t : State} {i : Instr} (h : fetch s = .run i t) : step s = completeOpWrite (exec i t) := by
  rw [step, h]

/-- Settles O7: the block waits, has served the move (a refused access among them, R55), or completes the operation it
fetched. -/
theorem stepAlwaysAnswersANextState : Obligations.StepAlwaysAnswersANextState := by
  intro s
  cases h : fetch s with
  | idle => exact ⟨s, step_of_idle h⟩
  | served t => exact ⟨t, step_of_served h⟩
  | run i t =>
    obtain ⟨u, hu⟩ := exec_next i t
    exact ⟨u.respond .done, by rw [step_of_run h, hu, completeOpWrite_next]⟩

end Sys2Proof.Machine
end

section
/-! The invariant's part on the command and the error record, and the shared operations that keep it (10_state.md R29,
R39). -/

namespace Sys2Proof.Machine

theorem stickyBit_getLsbD (n k : Nat) : (stickyBit n).getLsbD k = decide (k < 10 ∧ n = k) := by
  change (BitVec.ofNat 10 (1 <<< n)).getLsbD k = _
  rw [BitVec.getLsbD_ofNat, Nat.one_shiftLeft, Nat.testBit_two_pow, Bool.decide_and]

/-- A mark put in `ERRS` and in its ghost copy leaves `ERRS` inside the copy (D24). -/
theorem marked_and_marked {errs ever : BitVec 10} (h : errs &&& ever = errs) (mark : BitVec 10) :
    (errs ||| mark) &&& (ever ||| mark) = errs ||| mark := by
  have distrib : (errs ||| mark) &&& (ever ||| mark) = errs &&& ever ||| mark := by
    ext; simp [Bool.or_and_distrib_right]
  rw [distrib, h]

/-- The kinds that operations raise have known codes, each with a bit in `ERRS` that is neither 0 nor 3 (R220, R223). -/
theorem errNumber_spec {e : ErrKind} (h : e ≠ .checksumMismatch) :
    BitVec.ofNat 8 (errNumber e) ∈ completionCodes ∧ (BitVec.ofNat 8 (errNumber e)).toNat = errNumber e ∧
      errNumber e < 10 ∧ errNumber e ≠ 0 ∧ errNumber e ≠ 3 := by
  cases e with
  | checksumMismatch => exact absurd rfl h
  | payloadOverflow | missingTargetId | transportError _ | illegalOp | badCommand | messageIncomplete | cmdIdRange =>
    simp [errNumber, completionCodes]

/-- The part of the invariant that also holds in the middle of an operation, before it writes its completion code. -/
structure State.Sound (s : State) : Prop where
  selected : s.cmdv = true → isSelectable Config.cmdtab s.cmd
  bitZeroClear : s.errs.getLsbD 0 = false
  bitThreeClear : s.errs.getLsbD 3 = false
  everRecorded : s.errs &&& s.errsEver = s.errs
  framesWellFormed : ∀ e ∈ s.out, e.wellFormed = true

/-- The fields that `State.Sound` speaks of. -/
def State.standing (s : State) : Bool × Byte × BitVec 10 × BitVec 10 × List OutEvent :=
  (s.cmdv, s.cmd, s.errs, s.errsEver, s.out)

theorem standing_eq_iff {s t : State} :
    t.standing = s.standing ↔
      t.cmdv = s.cmdv ∧ t.cmd = s.cmd ∧ t.errs = s.errs ∧ t.errsEver = s.errsEver ∧ t.out = s.out := by
  simp [State.standing]

theorem State.Sound.congr {s t : State} (h : s.Sound) (same : t.standing = s.standing) : t.Sound := by
  obtain ⟨cmdv, cmd, errs, ever, out⟩ := standing_eq_iff.1 same
  obtain ⟨selected, zero, three, recorded, frames⟩ := h
  constructor <;> simp only [cmdv, cmd, errs, ever, out] <;> assumption

/-- A mark at a bit of `ERRS` that is neither 0 nor 3. -/
theorem State.Sound.mark {s : State} (h : s.Sound) {n : Nat} (n0 : n ≠ 0) (n3 : n ≠ 3) :
    { s with errs := s.errs ||| stickyBit n, errsEver := s.errsEver ||| stickyBit n }.Sound where
  selected := h.selected
  bitZeroClear := by simp only [BitVec.getLsbD_or, h.bitZeroClear, stickyBit_getLsbD]; simp [n0]
  bitThreeClear := by simp only [BitVec.getLsbD_or, h.bitThreeClear, stickyBit_getLsbD]; simp [n3]
  everRecorded := marked_and_marked h.everRecorded _
  framesWellFormed := h.framesWellFormed

theorem State.Sound.select {s : State} (h : s.Sound) {id : Byte} (row : hasCommand Config.cmdtab id = true) :
    { s with cmd := id, cmdv := true }.Sound :=
  { h with selected := fun _ => selectable_of_hasCommand _ _ row }

theorem State.Sound.append {s : State} (h : s.Sound) {e : OutEvent} (wf : e.wellFormed = true) :
    { s with out := s.out ++ [e] }.Sound :=
  { h with framesWellFormed := by simpa [or_imp, forall_and, wf] using h.framesWellFormed }

theorem State.Inv.sound {s : State} (h : s.Inv) : s.Sound :=
  ⟨h.selected, h.bitZeroClear, h.bitThreeClear, h.everRecorded, h.framesWellFormed⟩

theorem State.Inv.congr {s t : State} (h : s.Inv) (same : t.standing = s.standing) (code : t.lasterr = s.lasterr)
    (word : t.xerr = s.xerr) : t.Inv := by
  obtain ⟨-, -, errs, -, out⟩ := standing_eq_iff.1 same
  obtain ⟨selected, zero, three, ever, frames⟩ := h.sound.congr same
  refine ⟨selected, zero, three, ?_, ?_, ?_, ever, frames⟩
  · rw [code]; exact h.codeKnown
  · rw [code, errs]; exact h.codeRecorded
  · rw [code, out, word]; exact h.transportWord

/-- An operation that succeeds ends in a state with the invariant. -/
theorem State.Sound.inv_of_success {s t : State} (h : s.Sound) (same : t.standing = s.standing) (ok : t.lasterr = 0) :
    t.Inv := by
  obtain ⟨selected, zero, three, ever, frames⟩ := h.congr same
  refine ⟨selected, zero, three, ?_, fun ne => absurd ok ne, fun is4 => ?_, ever, frames⟩
  · rw [ok]; exact List.mem_cons_self
  · simp [ok] at is4

/-- An operation that raises an error ends in a state with the invariant (R224); a `TransportError` has to carry the word
of the latest answer (R30). -/
theorem State.Sound.inv_of_raise {s : State} (h : s.Sound) (e : ErrKind) (raised : e ≠ .checksumMismatch)
    (word : ∀ w, e = .transportError w → ∃ ev, s.out.getLast? = some ev ∧ ev.answer = .err w) : (s.raise e).Inv := by
  obtain ⟨known, number, lt10, n0, n3⟩ := errNumber_spec raised
  obtain ⟨selected, zero, three, ever, frames⟩ : (s.raise e).Sound := (h.mark n0 n3).congr rfl
  refine ⟨selected, zero, three, known, fun _ => ?_, fun is4 => ?_, ever, frames⟩
  · simp [number, stickyBit_getLsbD, lt10]
  · cases e with
    | transportError w => exact word w rfl
    | checksumMismatch | payloadOverflow | missingTargetId | illegalOp | badCommand | messageIncomplete | cmdIdRange =>
      simp [errNumber] at is4

theorem State.Sound.inv_of_raise_local {s : State} (h : s.Sound) (e : ErrKind) (raised : e ≠ .checksumMismatch)
    (isLocal : ∀ w, e ≠ .transportError w) : (s.raise e).Inv :=
  h.inv_of_raise e raised fun w he => absurd he (isLocal w)

/-- A refused access keeps the invariant: it marks bit 9 and writes no code (R55). -/
theorem State.Inv.recordBusFault {s : State} (h : s.Inv) : s.recordBusFault.Inv := by
  obtain ⟨selected, zero, three, ever, frames⟩ : s.recordBusFault.Sound :=
    (h.sound.mark (n := 9) (by simp) (by simp)).congr rfl
  refine ⟨selected, zero, three, h.codeKnown, fun ne => ?_, h.transportWord, ever, frames⟩
  simp [h.codeRecorded ne]

/-- The invariant holds of every block whose record is empty. -/
theorem State.inv_of_clear {s : State} (selected : s.cmdv = true → isSelectable Config.cmdtab s.cmd) (errs : s.errs = 0)
    (ok : s.lasterr = 0) (frames : ∀ e ∈ s.out, e.wellFormed = true) : s.Inv :=
  State.Sound.inv_of_success (s := s) ⟨selected, by simp [errs], by simp [errs], by simp [errs], frames⟩ rfl ok

end Sys2Proof.Machine
end

section
/-! The frames the encoders submit are well formed (43_uart_frame.md R158, R159; 44_can_frame.md R177), and what an
operation does to `OUT` (10_state.md R37). -/

namespace Sys2Proof.Machine

/-- Every UART frame is valid, whatever the command and the payload (R158, R159). -/
theorem uartFrameValid_uartFrame (cmd : Byte) (raw : Word) : uartFrameValid (uartFrame cmd raw) = true := by
  simp [uartFrameValid, uartFrame, uartPreamble, uartBody, be32, be16]

/-- Two fields put together, as a number. -/
theorem toNat_append_eq_add {m n : Nat} (hi : BitVec m) (lo : BitVec n) :
    (hi ++ lo).toNat = hi.toNat * 2 ^ n + lo.toNat := by
  rw [BitVec.toNat_append, ← Nat.shiftLeft_add_eq_or_of_lt lo.isLt, Nat.shiftLeft_eq]

theorem canId_toNat (cmd tid : Byte) : (canId cmd tid).toNat = cmd.toNat * 256 + tid.toNat := by
  rw [canId, BitVec.toNat_setWidth, toNat_append_eq_add]
  omega

/-- Trimming keeps one byte at least, and stops at a non-zero byte or at the last one (R172). -/
theorem trimZeros_spec (bytes : List Byte) (h : bytes ≠ []) :
    1 ≤ (trimZeros bytes).length ∧ (trimZeros bytes).length ≤ bytes.length ∧
      ((trimZeros bytes).length = 1 ∨ (trimZeros bytes).head? ≠ some 0) := by
  induction bytes using trimZeros.induct with
  | case1 c rest ih =>
    obtain ⟨one, le, first⟩ := ih (by simp)
    rw [trimZeros, if_pos rfl]
    exact ⟨one, by simp only [List.length_cons] at le ⊢; omega, first⟩
  | case2 b c rest nonzero =>
    rw [trimZeros, if_neg nonzero]
    exact ⟨by simp, le_rfl, .inr (by simpa using nonzero)⟩
  | case3 bytes single =>
    cases bytes with
    | nil => exact absurd rfl h
    | cons b rest =>
      cases rest with
      | nil => simp [trimZeros]
      | cons c rest => exact (single b c rest rfl).elim

/-- The data of a CAN frame are 1 to 4 bytes and start with a zero byte only if it is the only one (R177). -/
theorem canPayload_spec (raw : Word) :
    1 ≤ (canPayload raw).length ∧ (canPayload raw).length ≤ 4 ∧
      ((canPayload raw).length = 1 ∨ (canPayload raw).head? ≠ some 0) :=
  trimZeros_spec (be32 raw) (by simp [be32])

/-- What is submitted is well formed, records the answer it was given, and comes from an encoder. -/
theorem Submits.spec {s : State} {i : Instr} {c : Half} {ev : SinkAnswer → OutEvent} (h : Submits s i c ev)
    (a : SinkAnswer) : (ev a).wellFormed = true ∧ (ev a).answer = a ∧ (i = .encUart ∨ i = .encCan) := by
  cases h with
  | uart => exact ⟨uartFrameValid_uartFrame _ _, rfl, .inl rfl⟩
  | can =>
    refine ⟨?_, rfl, .inr rfl⟩
    have id : (canId s.cmd s.tid).toNat < 2 ^ 16 := by rw [canId_toNat]; omega
    simpa [OutEvent.wellFormed, and_assoc] using And.intro id (canPayload_spec s.raw)

/-- An operation leaves `OUT`, and is then no encoder that got as far as submitting, or is an encoder whose one frame the
sink answered. -/
theorem ExecCase.out_spec {s t : State} {i : Instr} (h : ExecCase s i t) :
    (t.out = s.out ∧ ¬ ((i = .encUart ∨ i = .encCan) ∧ (t.lasterr = 0 ∨ t.lasterr = 4))) ∨
    ((i = .encUart ∨ i = .encCan) ∧
      ∃ event, t.out = s.out ++ [event] ∧ event.wellFormed = true ∧
        ((t.lasterr = 0 ∧ event.answer = .ok) ∨ (t.lasterr = 4 ∧ event.answer = .err t.xerr))) := by
  cases h with
  | accepted i c ev as d ready submits answered =>
    obtain ⟨wf, answer, encoder⟩ := submits.spec .ok
    exact .inr ⟨encoder, _, rfl, wf, .inl ⟨rfl, answer⟩⟩
  | transportError i c ev as d w ready submits answered =>
    obtain ⟨wf, answer, encoder⟩ := submits.spec (.err w)
    exact .inr ⟨encoder, _, rfl, wf, .inr ⟨rfl, answer⟩⟩
  | crcInit | crcByte | selected | badCommand | tidSet | tidClr | scaled | overflow | errClr =>
    exact .inl ⟨rfl, fun encoder => by simp at encoder⟩
  | incomplete | cmdIdRange | missingTargetId =>
    exact .inl ⟨rfl, fun completed => by simp at completed⟩

/-- Settles O50: the local checks end before the submission, and a submission ends with the sink's answer. -/
theorem encodersSubmitExactlyOnce : Obligations.EncodersSubmitExactlyOnce :=
  fun i s t h => (exec_cases i s t h).out_spec

end Sys2Proof.Machine
end

section
/-! The invariant at reset and along every operation and every step (10_state.md R39, R40). -/

namespace Sys2Proof.Machine

theorem ExecCase.keeps_inv {s t : State} {i : Instr} (h : ExecCase s i t) (inv : s.Inv) : t.Inv := by
  have sound := inv.sound
  cases h with
  | crcInit | crcByte | tidSet | tidClr | scaled => exact sound.inv_of_success rfl rfl
  | errClr => exact State.inv_of_clear sound.selected rfl rfl sound.framesWellFormed
  | selected b row => exact (sound.select row).inv_of_success rfl rfl
  | badCommand => exact sound.inv_of_raise_local .badCommand (by simp) (by simp)
  | overflow => exact sound.inv_of_raise_local .payloadOverflow (by simp) (by simp)
  | incomplete => exact sound.inv_of_raise_local .messageIncomplete (by simp) (by simp)
  | cmdIdRange => exact sound.inv_of_raise_local .cmdIdRange (by simp) (by simp)
  | missingTargetId => exact sound.inv_of_raise_local .missingTargetId (by simp) (by simp)
  | accepted i c ev as d ready submits answered =>
    exact (sound.append (submits.spec .ok).1).inv_of_success rfl rfl
  | transportError i c ev as d w ready submits answered =>
    obtain ⟨wf, answer, -⟩ := submits.spec (.err w)
    have submitted : { s with crc := c, out := s.out ++ [ev (.err w)], answers := as, draws := d }.Sound :=
      (sound.append wf).congr rfl
    exact submitted.inv_of_raise (.transportError w) (by simp) fun w' same => by
      cases same
      exact ⟨_, List.getLast?_concat, answer⟩

theorem StepCase.keeps_inv {s t : State} (h : StepCase s t) (inv : s.Inv) : t.Inv := by
  have served (rest : List HostMove) : { s with pending := rest }.Inv := inv.congr rfl rfl rfl
  cases h with
  | waits => exact inv
  | resets => exact State.inv_of_clear (by simp) rfl rfl (by simp)
  | reads | writesRaw | writesValLow | writesValHigh => exact inv.congr rfl rfl rfl
  | refuses m rest => exact (served rest).recordBusFault.congr rfl rfl rfl
  | illegal w e rest => exact ((served rest).sound.inv_of_raise_local .illegalOp (by simp) (by simp)).congr rfl rfl rfl
  | operates w i rest u hp hd op => exact (op.keeps_inv (served rest)).congr rfl rfl rfl

/-- Settles O55: a step serves one move, and each way of serving it keeps the invariant. -/
theorem stepKeepsTheInvariant : Obligations.StepKeepsTheInvariant :=
  fun s t inv h => (step_cases s t h).keeps_inv inv

/-- Settles O54: nothing is selected, recorded or submitted yet. -/
theorem invariantHoldsAtReset : Obligations.InvariantHoldsAtReset :=
  State.inv_of_clear (by simp [State.reset]) rfl rfl (by simp [State.reset])

/-- `CMD` and `CMDV` change together, to the id of a row, or `CMDV` becomes 0. -/
theorem ExecCase.command {s t : State} {i : Instr} (h : ExecCase s i t) :
    (t.cmdv = s.cmdv ∧ t.cmd = s.cmd) ∨ hasCommand Config.cmdtab t.cmd = true := by
  cases h with
  | selected b row => exact .inr row
  | crcInit | crcByte | badCommand | tidSet | tidClr | scaled | overflow | incomplete | cmdIdRange | missingTargetId
  | accepted | transportError | errClr => exact .inl ⟨rfl, rfl⟩

theorem StepCase.command {s t : State} (h : StepCase s t) :
    (t.cmdv = s.cmdv ∧ t.cmd = s.cmd) ∨ t.cmdv = false ∨ hasCommand Config.cmdtab t.cmd = true := by
  cases h with
  | resets => exact .inr (.inl rfl)
  | operates w i rest u hp hd op => exact op.command.imp_right .inr
  | waits | reads | writesRaw | writesValLow | writesValHigh | refuses | illegal => exact .inl ⟨rfl, rfl⟩

/-- Settles O53: only `CMD.SEL` of an id of the table changes `CMD`, and only reset clears `CMDV`. -/
theorem selectedCommandHasExactlyOneRow : Obligations.SelectedCommandHasExactlyOneRow := by
  refine ⟨fun valid => by simp [State.reset] at valid, fun s t h before valid => ?_⟩
  rcases (step_cases s t h).command with ⟨cmdv, cmd⟩ | cleared | row
  · rw [cmd]
    exact before (cmdv ▸ valid)
  · simp [cleared] at valid
  · exact selectable_of_hasCommand _ _ row

end Sys2Proof.Machine
end

section
/-! Serving one move that is no operation: reads, writes of `VAL`, reset (20_memory.md R56, 10_state.md R21, R31). -/

namespace Sys2Proof.Machine

/-- A step that serves a move which runs no operation. -/
theorem step_of_serveMove {s t : State} {m : HostMove} {rest : List HostMove} (pending : s.pending = m :: rest)
    (served : serveMove m { s with pending := rest } = .served t) : step s = .next t := by
  apply step_of_served
  rw [fetch, pending]
  exact served

theorem serveMove_of_busRead {s : State} {off : Offset} {size : Nat} {v : Word} (h : busRead s off size = some v) :
    serveMove (.read off size) s = .served (s.respond (.data v)) := by
  rw [serveMove, h]

/-- Every register stands at an aligned offset (R33), so a 4-byte read of it is refused only if it is write-only. -/
theorem busRead_of_regAt {s : State} {off : Offset} {r : Reg} (h : regAt off = some r) :
    busRead s off 4 = readReg s r := by
  have aligned : off.toNat % 4 = 0 := by
    rw [regAt] at h
    split at h <;> simp_all
  rw [busRead, accessedReg, if_pos ⟨rfl, aligned⟩, h, Option.bind_some]

/-- `STATUS` as a number: three flags, then `LASTERR` from bit 8 on (R31). -/
theorem statusWord_eq (s : State) :
    statusWord s =
      BitVec.ofNat 32 (s.cmdv.toNat + 2 * s.tidv.toNat + 4 * s.rawv.toNat + 256 * s.lasterr.toNat) := by
  apply BitVec.eq_of_toNat_eq
  simp only [statusWord, toNat_append_eq_add, BitVec.toNat_ofBool, BitVec.ofNat_eq_ofNat, BitVec.toNat_ofNat]
  have := s.cmdv.toNat_lt
  have := s.tidv.toNat_lt
  have := s.rawv.toNat_lt
  omega

theorem valLow_eq (s : State) : valLow s = BitVec.ofNat 32 (s.val.toNat % 2 ^ 32) := by
  apply BitVec.eq_of_toNat_eq
  simp [valLow]

theorem valHigh_eq (s : State) : valHigh s = BitVec.ofNat 32 (s.val.toNat / 2 ^ 32) := by
  apply BitVec.eq_of_toNat_eq
  simp [valHigh, Nat.shiftRight_eq_div_pow]

/-- The pattern whose halves are two given words (R21). -/
theorem halves_eq_ofNat (hi lo : Word) : hi ++ lo = BitVec.ofNat 64 (hi.toNat * 2 ^ 32 + lo.toNat) := by
  rw [← toNat_append_eq_add, BitVec.ofNat_toNat, BitVec.setWidth_eq]

theorem valHigh_append_eq (s : State) (w : Word) :
    valHigh s ++ w = BitVec.ofNat 64 (s.val.toNat / 2 ^ 32 * 2 ^ 32 + w.toNat) := by
  have high : (valHigh s).toNat = s.val.toNat / 2 ^ 32 := by rw [valHigh_eq, BitVec.toNat_ofNat]; omega
  rw [halves_eq_ofNat, high]

theorem append_valLow_eq (s : State) (w : Word) :
    w ++ valLow s = BitVec.ofNat 64 (w.toNat * 2 ^ 32 + s.val.toNat % 2 ^ 32) := by
  have low : (valLow s).toNat = s.val.toNat % 2 ^ 32 := by rw [valLow_eq, BitVec.toNat_ofNat]; omega
  rw [halves_eq_ofNat, low]

/-- The step that serves a write of `VALL`. -/
theorem step_writeValLow {s : State} {rest : List HostMove} {w : Word} (h : s.pending = .write 0x20 4 w :: rest) :
    step s = .next (({ s with pending := rest }.writeValLow w).respond .done) :=
  step_of_serveMove h rfl

/-- The step that serves a write of `VALH`. -/
theorem step_writeValHigh {s : State} {rest : List HostMove} {w : Word} (h : s.pending = .write 0x24 4 w :: rest) :
    step s = .next (({ s with pending := rest }.writeValHigh w).respond .done) :=
  step_of_serveMove h rfl

theorem valLow_writeValLow (s : State) (w : Word) : valLow (s.writeValLow w) = w :=
  BitVec.extractLsb'_append_eq_right

theorem issue_cons {s t : State} {m : HostMove} (ms : List HostMove)
    (h : step { s with pending := m :: s.pending } = .next t) : issue (m :: ms) s = issue ms t := by
  rw [issue, h]

/-- `SETVAL` writes the low half, then the high one (R78). -/
theorem issue_setValMoves (s : State) (v : F64) :
    issue (setValMoves v) s = .next { s with val := v, resps := s.resps ++ [.done, .done] } := by
  have whole : v.extractLsb' 32 32 ++ valLow (s.writeValLow (v.extractLsb' 0 32)) = v := by
    rw [valLow_writeValLow]
    exact BitVec.extractLsb'_append_extractLsb'
  rw [setValMoves, issue_cons _ (step_writeValLow rfl), issue_cons _ (step_writeValHigh rfl), issue]
  change Host.Outcome.next { s with
    val := v.extractLsb' 32 32 ++ valLow (s.writeValLow (v.extractLsb' 0 32))
    resps := s.resps ++ [BusResp.done] ++ [BusResp.done] } = _
  rw [whole, List.append_assoc]
  rfl

/-- Settles O12: the other half is put back as it was, and the two halves of a pattern make it up. -/
theorem valIsWrittenByHalves : Obligations.ValIsWrittenByHalves := by
  refine ⟨fun s rest w h => ?_, fun s rest w h => ?_, issue_setValMoves⟩
  · rw [step_writeValLow h, ← valHigh_append_eq]
    rfl
  · rw [step_writeValHigh h, ← append_valLow_eq]
    rfl

/-- Settles O10: the word that each readable register reads as is the number of R23 to R31. -/
theorem readAnswersTheRegisterAndChangesNothing : Obligations.ReadAnswersTheRegisterAndChangesNothing := by
  intro s rest off v pending row
  have reads (k : Offset) (r : Reg) (here : off.toNat = k.toNat) (reg : regAt k = some r)
      (value : readReg { s with pending := rest } r = some v) :
      step s = .next { s with pending := rest, resps := s.resps ++ [.data v] } := by
    obtain rfl := BitVec.eq_of_toNat_eq here
    exact step_of_serveMove pending (serveMove_of_busRead ((busRead_of_regAt reg).trans value))
  simp only [List.mem_cons, Prod.mk.injEq, List.not_mem_nil, or_false] at row
  rcases row with ⟨o, rfl⟩ | ⟨o, rfl⟩ | ⟨o, rfl⟩ | ⟨o, rfl⟩ | ⟨o, rfl⟩ | ⟨o, rfl⟩ | ⟨o, rfl⟩ | ⟨o, rfl⟩ | ⟨o, rfl⟩
  · exact reads 0x04 .status o rfl (congrArg some (statusWord_eq _))
  · exact reads 0x08 .errs o rfl (congrArg some (BitVec.ofNat_toNat _ _).symm)
  · exact reads 0x0C .xerr o rfl rfl
  · exact reads 0x10 .crc o rfl (congrArg some (BitVec.ofNat_toNat _ _).symm)
  · exact reads 0x14 .cmd o rfl (congrArg some (BitVec.ofNat_toNat _ _).symm)
  · exact reads 0x18 .tid o rfl (congrArg some (BitVec.ofNat_toNat _ _).symm)
  · exact reads 0x1C .raw o rfl rfl
  · exact reads 0x20 .vall o rfl (congrArg some (valLow_eq _))
  · exact reads 0x24 .valh o rfl (congrArg some (valHigh_eq _))

/-- Settles O13: every other way a step can end updates none of these fields. -/
theorem onlyOperationsAndResetTouchLasterrAndOut : Obligations.OnlyOperationsAndResetTouchLasterrAndOut := by
  intro s t h noOperation noReset
  cases step_cases s t h with
  | resets rest pending => simp [pending] at noReset
  | illegal w e rest pending => simp [pending] at noOperation
  | operates w i rest u pending => simp [pending] at noOperation
  | waits | reads | refuses | writesRaw | writesValLow | writesValHigh =>
    exact ⟨rfl, rfl, rfl, rfl, rfl, rfl, rfl, rfl⟩

/-- Settles O51: the values are those that R40 lists. -/
theorem resetValues : Obligations.ResetValues :=
  ⟨rfl, rfl, rfl, rfl, rfl, rfl, rfl, rfl, rfl, rfl, rfl, rfl⟩

/-- Settles O52: the move is served by `State.resetBlock`. -/
theorem resetMoveRestoresTheRegisters : Obligations.ResetMoveRestoresTheRegisters :=
  fun _ _ pending => step_of_serveMove pending rfl

end Sys2Proof.Machine
end

section
/-! Operations that do not read `TID` act the same on states that differ in `TID` only (10_state.md R24). -/

namespace Sys2Proof.Machine

/-- The state with another content of `TID`. -/
def State.withTid (s : State) (x : Byte) : State := { s with tid := x }

@[simp] theorem withTid_val (s : State) (x : Byte) : (s.withTid x).val = s.val := rfl
@[simp] theorem withTid_cmd (s : State) (x : Byte) : (s.withTid x).cmd = s.cmd := rfl
@[simp] theorem withTid_cmdv (s : State) (x : Byte) : (s.withTid x).cmdv = s.cmdv := rfl
@[simp] theorem withTid_answers (s : State) (x : Byte) : (s.withTid x).answers = s.answers := rfl

theorem withTid_answerTaken (s : State) (x : Byte) : (s.withTid x).answerTaken = s.answerTaken.withTid x := by
  unfold State.answerTaken
  rw [withTid_answers]
  cases s.answers <;> rfl

theorem withTid_submitAndConclude (s : State) (x : Byte) (ev : SinkAnswer → OutEvent) :
    (s.withTid x).submitAndConclude ev = (s.submitAndConclude ev).withTid x := by
  have answer : (s.withTid x).nextAnswer = s.nextAnswer := nextAnswer_congr rfl rfl
  unfold State.submitAndConclude State.submit
  rw [answer, withTid_answerTaken]
  cases s.nextAnswer <;> rfl

theorem withTid_selectCommand (s : State) (x : Byte) (tab : CmdTab) (imm8 : Byte) :
    (s.withTid x).selectCommand tab imm8 = (s.selectCommand tab imm8).withTid x := by
  unfold State.selectCommand
  split <;> rfl

theorem withTid_scalePayload (s : State) (x : Byte) (tab : CmdTab) :
    (s.withTid x).scalePayload tab = (s.scalePayload tab).withTid x := by
  unfold State.scalePayload
  rw [withTid_val, withTid_cmd, withTid_cmdv]
  cases s.cmdv with
  | false => rfl
  | true => cases scaleRound s.val (scaleFor tab s.cmd) <;> rfl

theorem withTid_execEncUart {s t : State} (x : Byte) (h : execEncUart s = .next t) :
    execEncUart (s.withTid x) = .next (t.withTid x) := by
  cases h
  rw [apply_ite (State.withTid · x), apply_ite (State.withTid · x), ← withTid_submitAndConclude]
  rfl

/-- Without a target id `ENC.CAN` ends in one of its two local errors (R176). -/
theorem execEncCan_of_noTid {s : State} (noTid : s.tidv = false) :
    execEncCan s = .next (s.raise (if s.messageReady then .missingTargetId else .messageIncomplete)) := by
  rcases execEncCan_cases s with ⟨ready, e⟩ | ⟨ready, -, e⟩ | ⟨-, tid, -⟩
  · rw [e, ready]; rfl
  · rw [e, ready]; rfl
  · rw [noTid] at tid; cases tid

theorem withTid_execEncCan {s t : State} (x : Byte) (noTid : s.tidv = false) (h : execEncCan s = .next t) :
    execEncCan (s.withTid x) = .next (t.withTid x) := by
  have other : (s.withTid x).tidv = false := noTid
  rw [execEncCan_of_noTid noTid] at h
  rw [execEncCan_of_noTid other]
  cases h
  rfl

/-- Settles O25: of the operations that are not `TID.SET` only `ENC.CAN` reads `TID`, after it has checked `TIDV`. -/
theorem invalidTargetIdIsNotRead : Obligations.InvalidTargetIdIsNotRead := by
  intro i s t x noTid h notTidSet
  change exec i (s.withTid x) = .next (t.withTid x)
  cases i with
  | tidSet b => exact absurd rfl (notTidSet b)
  | crcInit | crcByte | tidClr | errClr => cases h; rfl
  | cmdSel b => cases h; exact congrArg _ (withTid_selectCommand s x _ b)
  | scale => cases h; exact congrArg _ (withTid_scalePayload s x _)
  | encUart => exact withTid_execEncUart x h
  | encCan => exact withTid_execEncCan x noTid h

end Sys2Proof.Machine
end

section
/-! Bus accesses and the serving of one host move: what is refused, what starts an operation, what the host is answered
(20_memory.md R50 to R57). -/

namespace Sys2Proof.Machine

/-- The byte offset of a register in the map of R33. -/
def Reg.offset : Reg → Nat
  | .op => 0x00
  | .status => 0x04
  | .errs => 0x08
  | .xerr => 0x0C
  | .crc => 0x10
  | .cmd => 0x14
  | .tid => 0x18
  | .raw => 0x1C
  | .vall => 0x20
  | .valh => 0x24

theorem offset_of_regAt {off : Offset} {r : Reg} (h : regAt off = some r) : off.toNat = r.offset := by
  rw [regAt] at h
  split at h <;> cases h <;> assumption

/-- An access reaches a register only with size 4 and at the register's own offset (R52, R53). -/
theorem accessedReg_inv {off : Offset} {size : Nat} {r : Reg} (h : accessedReg off size = some r) :
    size = 4 ∧ off.toNat = r.offset := by
  rw [accessedReg] at h
  split at h
  next reaches => exact ⟨reaches.1, offset_of_regAt h⟩
  next => cases h

/-- Only `OP` is write-only, so a read with data is one of the nine others (R54). -/
theorem readable_of_busRead {s : State} {off : Offset} {size : Nat} {v : Word} (h : busRead s off size = some v) :
    size = 4 ∧ off.toNat ∈ [0x04, 0x08, 0x0C, 0x10, 0x14, 0x18, 0x1C, 0x20, 0x24] := by
  obtain ⟨r, reached, value⟩ := Option.bind_eq_some_iff.1 h
  obtain ⟨size4, here⟩ := accessedReg_inv reached
  refine ⟨size4, ?_⟩
  rw [here]
  cases r with
  | op => cases value
  | status | errs | xerr | crc | cmd | tid | raw | vall | valh => simp [Reg.offset]

/-- A write that is not refused is to `OP`, `RAW` or one half of `VAL` (R54). -/
theorem writable_of_busWrite {s : State} {off : Offset} {size : Nat} {w : Word}
    (h : busWrite s off size w ≠ .refused) : size = 4 ∧ off.toNat ∈ [0x00, 0x1C, 0x20, 0x24] := by
  have writable (r : Reg) (reached : accessedReg off size = some r)
      (right : r.offset ∈ [0x00, 0x1C, 0x20, 0x24]) : size = 4 ∧ off.toNat ∈ [0x00, 0x1C, 0x20, 0x24] := by
    obtain ⟨size4, here⟩ := accessedReg_inv reached
    exact ⟨size4, here ▸ right⟩
  rw [busWrite] at h
  split at h
  next reached => exact writable .op reached (by simp [Reg.offset])
  next reached => exact writable .raw reached (by simp [Reg.offset])
  next reached => exact writable .vall reached (by simp [Reg.offset])
  next reached => exact writable .valh reached (by simp [Reg.offset])
  next => exact absurd rfl h

theorem serveMove_of_unreadable {s : State} {off : Offset} {size : Nat}
    (h : size ≠ 4 ∨ off.toNat ∉ [0x04, 0x08, 0x0C, 0x10, 0x14, 0x18, 0x1C, 0x20, 0x24]) :
    serveMove (.read off size) s = .served s.refuseAccess := by
  have refused : busRead s off size = none :=
    Option.eq_none_iff_forall_ne_some.2 fun v data => (not_and_or.2 h) (readable_of_busRead data)
  rw [serveMove, refused]

theorem serveMove_of_unwritable {s : State} {off : Offset} {size : Nat} {w : Word}
    (h : size ≠ 4 ∨ off.toNat ∉ [0x00, 0x1C, 0x20, 0x24]) :
    serveMove (.write off size w) s = .served s.refuseAccess := by
  have refused : busWrite s off size w = .refused :=
    by_contra fun done => (not_and_or.2 h) (writable_of_busWrite done)
  rw [serveMove, refused]

/-- Settles O9: such an access reaches no register with the right it needs, and `State.refuseAccess` is the effect of
R55. -/
theorem refusedAccessSetsOnlyTheBusBit : Obligations.RefusedAccessSetsOnlyTheBusBit :=
  fun _ _ _ _ _ =>
    ⟨fun pending refused => step_of_serveMove pending (serveMove_of_unreadable refused),
     fun pending refused => step_of_serveMove pending (serveMove_of_unwritable refused)⟩

theorem fetch_of_opWrite {s : State} {rest : List HostMove} {w : Word} {i : Instr}
    (pending : s.pending = .write 0x00 4 w :: rest) (decoded : decode w = .ok i) :
    fetch s = .run i { s with pending := rest } := by
  rw [fetch, pending]
  change takeOpWord w { s with pending := rest } = _
  rw [takeOpWord, decoded]

/-- Settles O6: the word is taken from `pending` and decoded, and its operation completes the write (R57). -/
theorem stepExecutesTheDecodedInstruction : Obligations.StepExecutesTheDecodedInstruction := by
  intro s rest w i pending decoded
  obtain ⟨t, executed⟩ := exec_next i { s with pending := rest }
  rw [step_of_run (fetch_of_opWrite pending decoded), executed]
  rfl

/-- An operation neither takes a move of the host nor answers one. -/
theorem ExecCase.pending_resps {s t : State} {i : Instr} (h : ExecCase s i t) :
    t.pending = s.pending ∧ t.resps = s.resps := by
  cases h with
  | crcInit | crcByte | selected | badCommand | tidSet | tidClr | scaled | overflow | incomplete | cmdIdRange
  | missingTargetId | accepted | transportError | errClr => exact ⟨rfl, rfl⟩

theorem StepCase.serves_oldest {s t : State} {m : HostMove} {rest : List HostMove} (h : StepCase s t)
    (pending : s.pending = m :: rest) :
    t.pending = rest ∧ (m = .reset → t.resps = s.resps) ∧ (m ≠ .reset → ∃ r, t.resps = s.resps ++ [r]) := by
  cases h with
  | waits idle => cases idle.symm.trans pending
  | resets rest' p =>
    cases p.symm.trans pending
    exact ⟨rfl, fun _ => rfl, fun access => absurd rfl access⟩
  | refuses m' rest' p access =>
    cases p.symm.trans pending
    exact ⟨rfl, fun reset => absurd reset access, fun _ => ⟨_, rfl⟩⟩
  | reads _ _ _ rest' p | writesRaw _ _ _ rest' p | writesValLow _ _ _ rest' p | writesValHigh _ _ _ rest' p
  | illegal _ _ rest' p =>
    cases p.symm.trans pending
    exact ⟨rfl, nofun, fun _ => ⟨_, rfl⟩⟩
  | operates w i rest' u p decoded op =>
    cases p.symm.trans pending
    obtain ⟨kept, unanswered⟩ := op.pending_resps
    exact ⟨kept, nofun, fun _ => ⟨.done, by rw [respond_resps, unanswered]⟩⟩

/-- Settles O8: without a move the block waits; otherwise it steps, and each way of serving a move takes it and answers
it once. -/
theorem stepServesOneMoveAndAnswersItOnce : Obligations.StepServesOneMoveAndAnswersItOnce := by
  refine ⟨fun s idle => step_of_idle (by rw [fetch, idle]), fun s m rest pending => ?_⟩
  obtain ⟨t, stepped⟩ := stepAlwaysAnswersANextState s
  exact ⟨t, stepped, (step_cases s t stepped).serves_oldest pending⟩

end Sys2Proof.Machine
end

section
/-! Operation words: the three fields of R70, the round trip of R75's decoder, and the words that decode. -/

namespace Sys2Proof.Machine

@[simp] theorem opcodeField_opWord (imm opcode : Byte) : opcodeField (opWord imm opcode) = opcode :=
  BitVec.extractLsb'_append_eq_right

@[simp] theorem immField_opWord (imm opcode : Byte) : immField (opWord imm opcode) = imm := by
  rw [immField, opWord, BitVec.extractLsb'_append_eq_of_le (by decide)]
  exact BitVec.extractLsb'_append_eq_right

@[simp] theorem zeroField_opWord (imm opcode : Byte) : zeroField (opWord imm opcode) = 0 := by
  rw [zeroField, opWord, BitVec.extractLsb'_append_eq_of_le (by decide)]
  exact BitVec.extractLsb'_append_eq_left

theorem opcodeField_toNat (w : Word) : (opcodeField w).toNat = w.toNat % 256 := by
  simp [opcodeField]

theorem immField_toNat (w : Word) : (immField w).toNat = w.toNat / 256 % 256 := by
  simp [immField, Nat.shiftRight_eq_div_pow]

theorem zeroField_toNat (w : Word) : (zeroField w).toNat = w.toNat / 65536 := by
  rw [zeroField, BitVec.extractLsb'_toNat, Nat.shiftRight_eq_div_pow]
  omega

/-- No bit of a word lies outside its three fields (R70). -/
theorem opWord_fields {w : Word} (zero : zeroField w = 0) : opWord (immField w) (opcodeField w) = w := by
  apply BitVec.eq_of_toNat_eq
  have upper : w.toNat / 65536 = 0 := by rw [← zeroField_toNat, zero]; rfl
  simp only [opWord, toNat_append_eq_add, immField_toNat, opcodeField_toNat, BitVec.ofNat_eq_ofNat,
    BitVec.toNat_ofNat]
  omega

/-- Settles O1: the decoder reads back the fields that the encoder set. -/
theorem decodeOfEncodeIsIdentity : Obligations.DecodeOfEncodeIsIdentity := by
  intro i
  cases i with
  | crcInit | crcByte | cmdSel | tidSet | tidClr | scale | encUart | encCan | errClr =>
    simp [decode, encode, decodeFormatN, decodeFormatI]

theorem decodeFormatN_eq_error_iff {i : Instr} {w : Word} :
    (∃ e, decodeFormatN i w = .error e) ↔ immField w ≠ 0 := by
  rw [decodeFormatN]
  split
  next zero => simp [zero]
  next nonzero => simpa using nonzero

/-- A word of format N holds the opcode and the immediate zero (R71). -/
theorem encode_of_decodeFormatN {i j : Instr} {w : Word} {op : Byte} (decoded : decodeFormatN i w = .ok j)
    (word : encode i = opWord 0 op) (zero : zeroField w = 0) (opcode : (opcodeField w).toNat = op.toNat) :
    encode j = w := by
  rw [decodeFormatN] at decoded
  split at decoded
  next imm =>
    cases decoded
    rw [word, ← imm, ← BitVec.eq_of_toNat_eq opcode, opWord_fields zero]
  next => cases decoded

/-- A word of format I holds the opcode and the operand as it is (R71, R72). -/
theorem encode_of_decodeFormatI {f : Byte → Instr} {j : Instr} {w : Word} {op : Byte}
    (decoded : decodeFormatI f w = .ok j) (word : ∀ imm, encode (f imm) = opWord imm op) (zero : zeroField w = 0)
    (opcode : (opcodeField w).toNat = op.toNat) : encode j = w := by
  cases decoded
  rw [word, ← BitVec.eq_of_toNat_eq opcode, opWord_fields zero]

/-- Settles O2: the upper half, the opcode and a format N immediate are checked; a format I operand is kept. -/
theorem encodeOfDecodedWordIsTheWord : Obligations.EncodeOfDecodedWordIsTheWord := by
  intro w i decoded
  rw [decode] at decoded
  split at decoded
  next => cases decoded
  next lower =>
    have zero := not_not.1 lower
    split at decoded
    case h_1 opcode | h_5 opcode | h_6 opcode | h_7 opcode | h_8 opcode | h_9 opcode =>
      exact encode_of_decodeFormatN decoded rfl zero opcode
    case h_2 opcode | h_3 opcode | h_4 opcode =>
      exact encode_of_decodeFormatI decoded (fun _ => rfl) zero opcode
    case h_10 => cases decoded

/-- The words that decode are exactly the encodings. -/
theorem decode_eq_ok_iff {w : Word} {i : Instr} : decode w = .ok i ↔ encode i = w :=
  ⟨encodeOfDecodedWordIsTheWord w i, fun word => word ▸ decodeOfEncodeIsIdentity i⟩

/-- Settles O5: each printed word is the encoding of its operation. -/
theorem specWordsDecodeToTheirInstructions : Obligations.SpecWordsDecodeToTheirInstructions := by
  simp only [Obligations.SpecWordsDecodeToTheirInstructions, decode_eq_ok_iff]
  decide

end Sys2Proof.Machine
end

section
/-! The nine mask and match rows of R73 against the decoder, and R74's illegal words (R225). -/

namespace Sys2Proof.Machine

theorem rowOfEncoding (i : Instr) : Laws.RowOfEncoding.Statement i := by
  cases i with
  | crcInit => exact Laws.RowOfEncoding.crcInit
  | crcByte imm8 => exact Laws.RowOfEncoding.crcByte imm8
  | cmdSel imm8 => exact Laws.RowOfEncoding.cmdSel imm8
  | tidSet imm8 => exact Laws.RowOfEncoding.tidSet imm8
  | tidClr => exact Laws.RowOfEncoding.tidClr
  | scale => exact Laws.RowOfEncoding.scale
  | encUart => exact Laws.RowOfEncoding.encUart
  | encCan => exact Laws.RowOfEncoding.encCan
  | errClr => exact Laws.RowOfEncoding.errClr

theorem selects_encode (i : Instr) : (opRow i).selects (encode i) = true := (rowOfEncoding i).1

theorem opRow_mem_opRows (i : Instr) : opRow i ∈ opRows := (rowOfEncoding i).2.1

/-- The rows of format N leave one word: every bit is compared (R71, R73). -/
theorem encode_of_selects_formatN {i : Instr} {w : Word} (row : opRow i = ⟨0xFFFFFFFF, encode i⟩)
    (sel : (opRow i).selects w = true) : encode i = w := by
  rw [row] at sel
  have masked : w &&& BitVec.allOnes 32 = encode i := beq_iff_eq.1 sel
  rw [← masked, BitVec.and_allOnes]

/-- The rows of format I leave the immediate free and nothing else (R71, R73). -/
theorem opWord_of_selects_formatI {op : Byte} {w : Word}
    (sel : (OpRow.mk 0xFFFF00FF (opWord 0 op)).selects w = true) : opWord (immField w) op = w := by
  have masked : w &&& 0xFFFF00FF = opWord 0 op := beq_iff_eq.1 sel
  have zero : zeroField w = 0 := by
    have all : zeroField (w &&& 0xFFFF00FF) = zeroField w &&& BitVec.allOnes 16 := BitVec.extractLsb'_and
    rw [← zeroField_opWord 0 op, ← masked, all, BitVec.and_allOnes]
  have opcode : opcodeField w = op := by
    have all : opcodeField (w &&& 0xFFFF00FF) = opcodeField w &&& BitVec.allOnes 8 := BitVec.extractLsb'_and
    rw [← opcodeField_opWord 0 op, ← masked, all, BitVec.and_allOnes]
  rw [← opcode, opWord_fields zero]

/-- A word that an instruction's row selects is the encoding of an instruction of that row. -/
theorem encoded_of_selects {i : Instr} {w : Word} (sel : (opRow i).selects w = true) :
    ∃ j, encode j = w ∧ opRow j = opRow i := by
  cases i with
  | crcInit | tidClr | scale | encUart | encCan | errClr => exact ⟨_, encode_of_selects_formatN rfl sel, rfl⟩
  | crcByte => exact ⟨.crcByte (immField w), opWord_of_selects_formatI sel, rfl⟩
  | cmdSel => exact ⟨.cmdSel (immField w), opWord_of_selects_formatI sel, rfl⟩
  | tidSet => exact ⟨.tidSet (immField w), opWord_of_selects_formatI sel, rfl⟩

/-- One of the nine rows selects a word exactly when the word decodes to an instruction of that row (R73, R75). -/
theorem selects_iff_decode {r : OpRow} (mem : r ∈ opRows) {w : Word} :
    r.selects w = true ↔ ∃ i, decode w = .ok i ∧ opRow i = r := by
  obtain ⟨i, -, rfl⟩ := List.mem_map.1 mem
  simp only [decode_eq_ok_iff]
  constructor
  · exact encoded_of_selects
  · rintro ⟨j, rfl, row⟩
    exact row ▸ selects_encode j

theorem countP_selects_of_decode {w : Word} {i : Instr} (decoded : decode w = .ok i) :
    opRows.countP (fun r => r.selects w) = 1 := by
  have nodup : opRows.Nodup := by decide
  rw [← List.count_eq_one_of_mem nodup (opRow_mem_opRows i), List.count]
  refine List.countP_congr fun r mem => ?_
  simp only [selects_iff_decode mem, decoded, Except.ok.injEq, exists_eq_left', beq_iff_eq]
  exact eq_comm

theorem countP_selects_of_illegal {w : Word} {e : Illegal} (illegal : decode w = .error e) :
    opRows.countP (fun r => r.selects w) = 0 := by
  refine List.countP_eq_zero.2 fun r mem => ?_
  simp [selects_iff_decode mem, illegal]

/-- Settles O3: the rows that select a word are those of what it decodes to, and the nine rows differ. -/
theorem decodesExactlyWhenOneRowSelected : Obligations.DecodesExactlyWhenOneRowSelected := by
  intro w
  cases decoded : decode w with
  | ok i =>
    have row : (opRow i).selects w = true := (selects_iff_decode (opRow_mem_opRows i)).2 ⟨i, decoded, rfl⟩
    simp [countP_selects_of_decode decoded, row]
  | error e => simp [countP_selects_of_illegal decoded]

/-- R74's three kinds of illegal words, on the fields of the word. -/
theorem decode_eq_error_iff {w : Word} :
    (∃ e, decode w = .error e) ↔
      zeroField w ≠ 0 ∨
      (opcodeField w).toNat ∉ [0x01, 0x02, 0x10, 0x11, 0x12, 0x20, 0x30, 0x31, 0x40] ∨
      ((opcodeField w).toNat ∈ [0x01, 0x12, 0x20, 0x30, 0x31, 0x40] ∧ immField w ≠ 0) := by
  rw [decode]
  split
  next upper => exact ⟨fun _ => .inl upper, fun _ => ⟨_, rfl⟩⟩
  next lower =>
    have zero := not_not.1 lower
    split
    case h_1 opcode | h_5 opcode | h_6 opcode | h_7 opcode | h_8 opcode | h_9 opcode =>
      simp [decodeFormatN_eq_error_iff, zero, opcode]
    case h_2 opcode | h_3 opcode | h_4 opcode => simp [decodeFormatI, zero, opcode]
    case h_10 => exact ⟨fun _ => .inr (.inl (by simp_all)), fun _ => ⟨_, rfl⟩⟩

theorem step_of_illegalWord {s : State} {rest : List HostMove} {w : Word} {e : Illegal}
    (pending : s.pending = .write 0x00 4 w :: rest) (illegal : decode w = .error e) :
    step s = .next ({ s with pending := rest }.illegalOp.respond .done) := by
  refine step_of_serveMove pending ?_
  change takeOpWord w { s with pending := rest } = _
  rw [takeOpWord, illegal]

/-- Settles O4: the three kinds are the three ways the decoder fails, and `raise IllegalOp` is the effect of R225. -/
theorem illegalWordRecordsIllegalOpOnly : Obligations.IllegalWordRecordsIllegalOpOnly := by
  refine ⟨fun w => ?_, fun s rest w e pending illegal => step_of_illegalWord pending illegal, .opcode, by decide⟩
  have upper : zeroField w ≠ 0 ↔ w.toNat / 65536 ≠ 0 := by
    rw [← zeroField_toNat, ne_eq, ← BitVec.toNat_inj]; rfl
  have imm : immField w ≠ 0 ↔ w.toNat / 256 % 256 ≠ 0 := by
    rw [← immField_toNat, ne_eq, ← BitVec.toNat_inj]; rfl
  rw [decode_eq_error_iff, opcodeField_toNat, upper, imm]

end Sys2Proof.Machine
end

section
/-! Issuing an operation, and the pseudo-operation `CRC16` that a host issues (30_encoding.md R78, 40_crc.md R101). -/

namespace Sys2Proof.Machine

/-- Issuing an operation runs it and answers `done` (R57, R77). -/
theorem step_opMove {s t : State} {i : Instr} {rest : List HostMove} (pending : s.pending = opMove i :: rest)
    (executed : exec i { s with pending := rest } = .next t) : step s = .next (t.respond .done) := by
  rw [step_of_run (fetch_of_opWrite pending (decodeOfEncodeIsIdentity i)), executed, completeOpWrite_next]

/-- `CRC.BYTE` for each of the bytes, in order, from a state with any register and any responses so far. -/
theorem issue_crcBytes (bytes : List Byte) (s : State) (c : Half) (answered : List BusResp) :
    issue (bytes.map fun b => opMove (.crcByte b)) { s with crc := c, lasterr := 0, resps := answered } =
      .next { s with
        crc := crcFold c bytes, lasterr := 0, resps := answered ++ List.replicate bytes.length .done } := by
  induction bytes generalizing c answered with
  | nil => simp [issue, crcFold]
  | cons b bytes ih =>
    rw [List.map_cons, issue_cons _ (step_opMove rfl rfl)]
    refine (ih (crcStep c b) (answered ++ [.done])).trans ?_
    simp [crcFold, List.replicate_succ]

theorem step_readCrc {s : State} {rest : List HostMove} (pending : s.pending = .read 0x10 4 :: rest) :
    step s = .next ({ s with pending := rest }.respond (.data (s.crc.setWidth 32))) :=
  step_of_serveMove pending rfl

/-- Settles O20: `CRC.INIT` makes the register and the code known, the bytes are folded in, and the read answers it. -/
theorem crcSequenceReadsCrc16 : Obligations.CrcSequenceReadsCrc16 := by
  intro bytes s
  have bytesDone := issue_crcBytes bytes s crcInitial (s.resps ++ [.done])
  rw [List.append_assoc, List.singleton_append, ← List.replicate_succ] at bytesDone
  rw [crc16Moves, List.cons_append, issue_cons _ (step_opMove rfl rfl)]
  refine (issue_append _ _ _ _ bytesDone).trans ?_
  rw [issue_cons _ (step_readCrc rfl), issue, BitVec.ofNat_toNat]
  rfl

end Sys2Proof.Machine
end

section
/-! The CRC engine (40_crc.md): a round is linear over XOR, so a step shifts the register by a byte and adds what the
byte that leaves it gives (R91, R93). -/

namespace Sys2Proof.Machine

/-- What a round adds, by the bit it shifts out. -/
def crcFeedback (out : Bool) : Half := if out then crcPoly else 0

theorem crcFeedback_xor (x y : Bool) : crcFeedback (x ^^ y) = crcFeedback x ^^^ crcFeedback y := by
  revert x y; decide

theorem crcShift_eq_shift_xor (r : Half) : crcShift r = r <<< 1 ^^^ crcFeedback (r.getLsbD 15) := by
  rw [crcShift]
  cases r.getLsbD 15 with
  | false => exact BitVec.xor_zero.symm
  | true => rfl

theorem crcShift_xor (x y : Half) : crcShift (x ^^^ y) = crcShift x ^^^ crcShift y := by
  simp only [crcShift_eq_shift_xor, BitVec.shiftLeft_xor_distrib, BitVec.getLsbD_xor, crcFeedback_xor]
  ac_rfl

theorem crcShift_iterate_xor (n : Nat) (x y : Half) :
    crcShift^[n] (x ^^^ y) = crcShift^[n] x ^^^ crcShift^[n] y := by
  induction n generalizing x y with
  | zero => rfl
  | succ n ih => rw [Function.iterate_succ_apply, crcShift_xor, ih]; rfl

/-- The bits of a low byte do not reach bit 15 in the first eight rounds. -/
theorem crcShift_iterate_lowByte (b : Byte) {n : Nat} (h : n ≤ 8) :
    crcShift^[n] (b.setWidth 16) = b.setWidth 16 <<< n := by
  induction n with
  | zero => exact (BitVec.shiftLeft_zero _).symm
  | succ n ih =>
    have top : (b.setWidth 16 <<< n : Half).getLsbD 15 = false := by
      have outside : b.getLsbD (15 - n) = false := BitVec.getLsbD_of_ge b _ (by omega)
      simp [outside]
    rw [Function.iterate_succ_apply', ih (by omega), crcShift_eq_shift_xor, top, BitVec.shiftLeft_add]
    exact BitVec.xor_zero

/-- The byte meets the high byte of the register; the low byte is only shifted. -/
theorem crcStep_eq_shift_xor (r : Half) (b : Byte) :
    crcStep r b = r <<< 8 ^^^ crcStep 0 (r.extractLsb' 8 8 ^^^ b) := by
  have bytes : r ^^^ (b.setWidth 16 <<< 8) =
      (r.extractLsb' 0 8).setWidth 16 ^^^ (0 ^^^ ((r.extractLsb' 8 8 ^^^ b).setWidth 16 <<< 8)) := by
    ext i hi
    by_cases low : i < 8
    · simp [low, BitVec.getLsbD_eq_getElem hi]
    · simp [low, hi, show i - 8 < 8 by omega, show 8 + (i - 8) = i by omega]
  have shifted : (r.extractLsb' 0 8).setWidth 16 <<< 8 = r <<< 8 := by
    ext i hi
    by_cases low : i < 8
    · simp [low]
    · simp [low, show i - 8 < 8 by omega, BitVec.getLsbD_eq_getElem (show i - 8 < 16 by omega)]
  rw [crcStep, bytes, crcShift_iterate_xor, crcShift_iterate_lowByte _ le_rfl, shifted]
  rfl

theorem crcStep_zero_zero : crcStep 0 0#8 = 0#16 := by decide

theorem crcTable_eq : crcTable = (List.range 256).map (fun i => crcStep 0 (BitVec.ofNat 8 i)) := by
  decide +kernel

theorem crcTable_getD (b : Byte) : crcTable.getD b.toNat 0 = crcStep 0 b := by
  rw [crcTable_eq, List.getD_eq_getElem _ _ (by simp [b.isLt]), List.getElem_map, List.getElem_range,
    BitVec.ofNat_toNat, BitVec.setWidth_eq]

/-- Settles O15: the table form is the shift of the register and the entry of the byte that leaves it. -/
theorem tableDrivenCrcEqualsBitSerial : Obligations.TableDrivenCrcEqualsBitSerial :=
  ⟨crcTable_eq, fun r b => by rw [crcStepByTable, crcTable_getD, crcStep_eq_shift_xor]⟩

theorem highByte_shift (r : Half) : (r <<< 8).extractLsb' 8 8 = r.extractLsb' 0 8 := by
  ext i hi
  simp [BitVec.getLsbD_eq_getElem (show i < 16 by omega), show 8 + i < 16 by omega]

theorem lowByte_shift (r : Half) : (r <<< 8).extractLsb' 0 8 = 0#8 := by
  ext i hi
  simp [hi]

/-- A register fed its own high byte is only shifted. -/
theorem crcStep_highByte (r : Half) : crcStep r (r.extractLsb' 8 8) = r <<< 8 := by
  rw [crcStep_eq_shift_xor, BitVec.xor_self, crcStep_zero_zero, BitVec.xor_zero]

theorem crcStep_ownBytes (r : Half) : crcStep (crcStep r (r.extractLsb' 8 8)) (r.extractLsb' 0 8) = 0 := by
  rw [crcStep_highByte, ← highByte_shift, crcStep_highByte, ← BitVec.shiftLeft_add]
  exact BitVec.shiftLeft_eq_zero le_rfl

theorem ofNat_div_eq_highByte (r : Half) : BitVec.ofNat 8 (r.toNat / 256) = r.extractLsb' 8 8 := by
  apply BitVec.eq_of_toNat_eq
  simp [Nat.shiftRight_eq_div_pow]

theorem ofNat_mod_eq_lowByte (r : Half) : BitVec.ofNat 8 (r.toNat % 256) = r.extractLsb' 0 8 := by
  apply BitVec.eq_of_toNat_eq
  simp

/-- The preamble's two bytes are the initial register's own. -/
theorem crc16_preamble : crc16 [0x02, 0x05] = 0 := by
  have own := crcStep_ownBytes crcInitial
  rw [show crcInitial.extractLsb' 8 8 = 0x02 by decide, show crcInitial.extractLsb' 0 8 = 0x05 by decide] at own
  rwa [crc16, crcFold, List.foldl_cons, List.foldl_cons, List.foldl_nil]

/-- Settles O16: a byte equal to the high one selects the table's entry 0, so each of the two bytes only shifts. -/
theorem crcContinuesAndOwnBytesGiveZero : Obligations.CrcContinuesAndOwnBytesGiveZero := by
  refine ⟨fun a b => List.foldl_append, fun r => ?_, crc16_preamble⟩
  rw [ofNat_div_eq_highByte, ofNat_mod_eq_lowByte, crcStep_ownBytes]

/-- A register that a zero byte leaves unchanged is known from the table's entry of its high byte: the low byte is the
entry's, and the high byte is the XOR of the entry's two. -/
theorem crcStep_zero_fixed {r : Half} (fixed : crcStep r 0#8 = r) :
    r.extractLsb' 0 8 = (crcStep 0 (r.extractLsb' 8 8)).extractLsb' 0 8 ∧
    r.extractLsb' 8 8 =
      (crcStep 0 (r.extractLsb' 8 8)).extractLsb' 0 8 ^^^ (crcStep 0 (r.extractLsb' 8 8)).extractLsb' 8 8 := by
  rw [crcStep_eq_shift_xor, BitVec.xor_zero] at fixed
  have low := congrArg (BitVec.extractLsb' 0 8) fixed
  have high := congrArg (BitVec.extractLsb' 8 8) fixed
  rw [BitVec.extractLsb'_xor, lowByte_shift, BitVec.zero_xor] at low
  rw [BitVec.extractLsb'_xor, highByte_shift, ← low] at high
  exact ⟨low.symm, high.symm⟩

/-- The bytes that are the XOR of the two bytes of their own entry. -/
theorem byte_eq_zero_or_of_entry : ∀ h : Byte,
    h = (crcStep 0 h).extractLsb' 0 8 ^^^ (crcStep 0 h).extractLsb' 8 8 → h = 0x00 ∨ h = 0xF0 := by
  decide +kernel

/-- Settles O18: only the high bytes `0x00` and `0xF0` fit their own entry, and the entry gives the low byte. -/
theorem zeroByteFixedPoints : Obligations.ZeroByteFixedPoints := by
  intro r
  constructor
  · intro fixed
    obtain ⟨low, high⟩ := crcStep_zero_fixed fixed
    have bytes : r.extractLsb' 8 8 ++ r.extractLsb' 0 8 = r := BitVec.extractLsb'_append_extractLsb'
    rw [low] at bytes
    rcases byte_eq_zero_or_of_entry _ high with h | h <;> rw [h] at bytes
    · exact .inl (bytes.symm.trans (by decide))
    · exact .inr (bytes.symm.trans (by decide))
  · rintro (rfl | rfl) <;> decide

/-- Settles O14: the fold over the nine digits, and over each of their prefixes, is evaluated. -/
theorem crcCheckValueHolds : Obligations.CrcCheckValueHolds := by
  unfold Obligations.CrcCheckValueHolds
  decide +kernel

end Sys2Proof.Machine
end

section
/-! The operations of the CRC engine, and which operations write `CRC` (40_crc.md R99 to R102). -/

namespace Sys2Proof.Machine

theorem opWord_toNat (imm opcode : Byte) : (opWord imm opcode).toNat = imm.toNat * 256 + opcode.toNat := by
  rw [opWord, toNat_append_eq_add, toNat_append_eq_add]
  simp

/-- Settles O17: the word is evaluated, and the next state is the operation's definition. -/
theorem crcInitLoadsTheInitialValue : Obligations.CrcInitLoadsTheInitialValue :=
  ⟨by decide, fun _ => rfl⟩

/-- Settles O19: the byte is the immediate field of the word, and the next state is the operation's definition. -/
theorem crcByteFeedsOneByte : Obligations.CrcByteFeedsOneByte :=
  fun b _ => ⟨opWord_toNat b 0x02, rfl⟩

theorem submitAndConclude_crc (s : State) (ev : SinkAnswer → OutEvent) :
    (s.submitAndConclude ev).crc = s.crc := by
  rcases submitAndConclude_cases s ev with ⟨-, e⟩ | ⟨w, -, e⟩ <;> simp [e]

theorem Submits.crc {s : State} {i : Instr} {c : Half} {ev : SinkAnswer → OutEvent} (h : Submits s i c ev) :
    c = s.crc ∨ i = .encUart := by
  cases h with
  | uart => exact .inr rfl
  | can => exact .inl rfl

/-- An operation leaves `CRC`, or is one of R102's three. -/
theorem ExecCase.crc {s t : State} {i : Instr} (h : ExecCase s i t) :
    t.crc = s.crc ∨ i = .crcInit ∨ (∃ b, i = .crcByte b) ∨ i = .encUart := by
  cases h with
  | crcInit => exact .inr (.inl rfl)
  | crcByte b => exact .inr (.inr (.inl ⟨b, rfl⟩))
  | accepted i c ev as d ready submits | transportError i c ev as d w ready submits =>
    exact submits.crc.imp_right fun uart => .inr (.inr uart)
  | selected | badCommand | tidSet | tidClr | scaled | overflow | incomplete | cmdIdRange | missingTargetId | errClr =>
    exact .inl rfl

/-- `ENC.UART` submits when both of its local checks pass (R156). -/
theorem execEncUart_of_ready {s : State} (ready : s.messageReady = true) (inRange : s.cmd ≤ uartMaxCommand) :
    execEncUart s = .next ({ s with crc := crc16 (uartBody s.cmd s.raw) }.submitAndConclude
      (.uart (uartFrame s.cmd s.raw))) := by
  rcases execEncUart_cases s with ⟨notReady, -⟩ | ⟨-, above, -⟩ | ⟨-, -, e⟩
  · rw [ready] at notReady; cases notReady
  · exact absurd above (BitVec.not_lt.2 inRange)
  · exact e

/-- The checksum covers the bytes 3 to 7 of the frame (R154). -/
theorem uartFrame_checksummed (cmd : Byte) (raw : Word) : ((uartFrame cmd raw).drop 2).take 5 = uartBody cmd raw := rfl

/-- Settles O21: every end of every operation is looked at, and what `ENC.UART` submits does not touch the checksum it
has put in `CRC`. -/
theorem onlyThreeOperationsWriteCrc : Obligations.OnlyThreeOperationsWriteCrc := by
  refine ⟨fun i s t h changed => (exec_cases i s t h).crc.resolve_left changed, fun _ => rfl, fun _ _ => rfl,
    fun s cmdv rawv inRange => ?_⟩
  have ready : s.messageReady = true := by simp [State.messageReady, cmdv, rawv]
  refine ⟨_, execEncUart_of_ready ready inRange, ?_⟩
  rw [submitAndConclude_crc, uartFrame_checksummed]

end Sys2Proof.Machine
end

section
/-! The command table and the Message (41_command_table_and_message.md): the operations and the write that build one, and
the encoders that read it. -/

namespace Sys2Proof.Machine

/-- `CMD.SEL` of an id of the table (R114). -/
theorem selectCommand_of_row (s : State) {tab : CmdTab} {imm : Byte} (row : ∃ r ∈ tab.rows, r.id = imm) :
    s.selectCommand tab imm = { s with cmd := imm, cmdv := true, lasterr := 0 } := by
  rcases selectCommand_cases s tab imm with ⟨-, e⟩ | ⟨absent, -⟩
  · exact e
  · rw [(hasCommand_iff tab imm).2 row] at absent; cases absent

/-- `CMD.SEL` of an id that no row of the table has (R114). -/
theorem selectCommand_of_noRow (s : State) {tab : CmdTab} {imm : Byte} (noRow : ∀ r ∈ tab.rows, r.id ≠ imm) :
    s.selectCommand tab imm = s.raise .badCommand := by
  rcases selectCommand_cases s tab imm with ⟨present, -⟩ | ⟨-, e⟩
  · obtain ⟨r, mem, same⟩ := (hasCommand_iff tab imm).1 present
    exact absurd same (noRow r mem)
  · exact e

/-- Settles O22: the table has a row with the id or it has none, and every table has one with the id 3. -/
theorem cmdSelSelectsOrReportsBadCommand : Obligations.CmdSelSelectsOrReportsBadCommand :=
  ⟨fun imm _ => ⟨opWord_toNat imm 0x10, rfl⟩,
   fun _ _ s => ⟨selectCommand_of_row s, selectCommand_of_noRow s⟩,
   fun s => congrArg Host.Outcome.next (selectCommand_of_row s (exists_rpm_row Config.cmdtab))⟩

/-- Settles O23: the byte is the immediate field of the word, and the next state is the operation's definition. -/
theorem tidSetGivesTheTargetId : Obligations.TidSetGivesTheTargetId :=
  fun imm _ => ⟨opWord_toNat imm 0x11, rfl⟩

theorem messageReady_of_valid {s : State} (cmdv : s.cmdv = true) (rawv : s.rawv = true) : s.messageReady = true := by
  rw [State.messageReady, cmdv, rawv, Bool.and_self]

theorem submitAndConclude_out (s : State) (ev : SinkAnswer → OutEvent) :
    (s.submitAndConclude ev).out = s.out ++ [ev s.nextAnswer] := by
  rcases submitAndConclude_cases s ev with ⟨-, e⟩ | ⟨w, -, e⟩ <;> simp [e]

/-- Settles O24: what `TID.CLR` leaves is still a Message, so `ENC.CAN` fails at its second check, and `ENC.UART`, which
has no such check, submits. -/
theorem tidClrRemovesTheTargetId : Obligations.TidClrRemovesTheTargetId := by
  refine ⟨by decide, fun _ => rfl, fun s t h cmdv rawv => ?_⟩
  cases h
  have ready : ({ s with tidv := false }.succeed).messageReady = true := messageReady_of_valid cmdv rawv
  constructor
  · refine (execEncCan_of_noTid rfl).trans ?_
    rw [ready]
    rfl
  · intro inRange
    exact ⟨_, _, execEncUart_of_ready ready inRange, submitAndConclude_out _ _⟩

/-- Settles O26: no end of the two encoders, a submission or one of their errors, updates a field of the Message. -/
theorem encodersLeaveTheMessage : Obligations.EncodersLeaveTheMessage := by
  intro i s t encoder h
  cases exec_cases i s t h with
  | incomplete | cmdIdRange | missingTargetId | accepted | transportError =>
    exact ⟨rfl, rfl, rfl, rfl, rfl, rfl, rfl, rfl⟩
  | crcInit | crcByte | selected | badCommand | tidSet | tidClr | scaled | overflow | errClr => simp at encoder

/-- Settles O11: offset `0x1C` is that of `RAW`, so the move is served by `State.writeRaw`. -/
theorem writeOfRawStoresAndValidates : Obligations.WriteOfRawStoresAndValidates :=
  fun _ _ _ pending => step_of_serveMove pending rfl

end Sys2Proof.Machine
end

section
/-! The integer roundings of the scaler (00_scope.md R13) as facts about distances: both give a nearest integer,
`rneInt` the even one of two, `rhaz` the one farther from zero. -/

namespace Sys2Proof.Machine

theorem mkRat_one_two : mkRat 1 2 = (1 / 2 : Rat) := by norm_num [Rat.mkRat_eq_div]

@[simp] theorem absRat_eq_abs (q : Rat) : absRat q = |q| := by
  unfold absRat
  split
  · next neg => exact (abs_of_neg neg).symm
  · next nonneg => exact (abs_of_nonneg (not_lt.1 nonneg)).symm

/-- Two different integers that both lie within 1/2 of `q` are neighbours, and `q` is the midpoint. -/
theorem midpoint_of_lt {q : Rat} {m n : Int} (lt : m < n) (hm : |q - m| ≤ 1 / 2) (hn : |q - n| ≤ 1 / 2) :
    n = m + 1 ∧ |q - m| = 1 / 2 ∧ |q - n| = 1 / 2 := by
  have := abs_le.1 hm
  have := abs_le.1 hn
  have step : (m : Rat) + 1 ≤ n := by exact_mod_cast lt
  have next : (n : Rat) = m + 1 := by linarith
  refine ⟨by exact_mod_cast next, ?_, ?_⟩
  · rw [abs_of_nonneg] <;> linarith
  · rw [abs_of_nonpos] <;> linarith

theorem eq_or_midpoint {q : Rat} {m n : Int} (hm : |q - m| ≤ 1 / 2) (hn : |q - n| ≤ 1 / 2) :
    m = n ∨ ((n = m + 1 ∨ m = n + 1) ∧ |q - m| = 1 / 2 ∧ |q - n| = 1 / 2) := by
  rcases lt_trichotomy m n with lt | eq | gt
  · obtain ⟨next, mid⟩ := midpoint_of_lt lt hm hn
    exact .inr ⟨.inl next, mid⟩
  · exact .inl eq
  · obtain ⟨next, mid', mid⟩ := midpoint_of_lt gt hn hm
    exact .inr ⟨.inr next, mid, mid'⟩

/-- `rneInt` lies within 1/2, and is even where it lies exactly 1/2 away (R13). -/
theorem rneInt_spec (q : Rat) : |q - rneInt q| ≤ 1 / 2 ∧ (|q - rneInt q| = 1 / 2 → Even (rneInt q)) := by
  have lower : ((q.floor : Int) : Rat) ≤ q := Rat.le_floor_iff.1 le_rfl
  have upper : q < (q.floor : Int) + 1 := by exact_mod_cast Rat.lt_floor_add_one q
  simp only [rneInt, mkRat_one_two]
  split
  · next up =>
    push_cast
    rw [abs_of_nonpos (by linarith)]
    rcases up with above | ⟨tie, odd⟩
    · exact ⟨by linarith, fun eq => by linarith⟩
    · exact ⟨by linarith, fun _ => (Int.odd_iff.2 odd).add_one⟩
  · next down =>
    rw [abs_of_nonneg (by linarith)]
    push Not at down
    exact ⟨by linarith [down.1], fun eq => Int.not_odd_iff_even.1 fun odd => down.2 eq (Int.odd_iff.1 odd)⟩

theorem abs_sub_rneInt_le (q : Rat) : |q - rneInt q| ≤ 1 / 2 := (rneInt_spec q).1

/-- That determines the integer, as of two neighbours one is odd. -/
theorem rneInt_unique {q : Rat} {n : Int} (near : |q - n| ≤ 1 / 2) (even : |q - n| = 1 / 2 → Even n) :
    rneInt q = n := by
  obtain ⟨near', even'⟩ := rneInt_spec q
  rcases eq_or_midpoint near' near with eq | ⟨apart, mid', mid⟩
  · exact eq
  · have := even' mid'
    have := even mid
    rw [Int.even_iff] at *
    omega

theorem rneInt_neg (q : Rat) : rneInt (-q) = -rneInt q := by
  obtain ⟨near, even⟩ := rneInt_spec q
  have mirror : |-q - ((-rneInt q : Int) : Rat)| = |q - rneInt q| := by
    rw [← abs_neg]; congr 1; push_cast; ring
  exact rneInt_unique (mirror ▸ near) fun tie => (even (mirror ▸ tie)).neg

@[simp] theorem rneInt_intCast (n : Int) : rneInt n = n :=
  rneInt_unique (by norm_num) (by norm_num)

@[simp] theorem rneInt_zero : rneInt 0 = 0 := rneInt_intCast 0

/-- No integer is nearer than `rneInt`, and where another is as near, `rneInt` is even. -/
theorem rneInt_nearest (q : Rat) (n : Int) :
    |q - rneInt q| ≤ |q - n| ∧ (n ≠ rneInt q → |q - n| = |q - rneInt q| → Even (rneInt q)) := by
  obtain ⟨near, even⟩ := rneInt_spec q
  by_cases far : |q - n| ≤ 1 / 2
  · rcases eq_or_midpoint near far with eq | ⟨-, mid, mid'⟩
    · exact ⟨by rw [eq], fun ne => absurd eq.symm ne⟩
    · exact ⟨by rw [mid, mid'], fun _ _ => even mid⟩
  · exact ⟨by linarith, fun _ eq => by linarith⟩

theorem rhaz_neg (q : Rat) : rhaz (-q) = -rhaz q := by
  rcases lt_trichotomy q 0 with neg | rfl | pos
  · simp [rhaz, neg, neg.le]
  · decide +kernel
  · simp [rhaz, pos, pos.le]

theorem rhaz_of_nonneg {q : Rat} (nonneg : 0 ≤ q) : rhaz q = round q := by
  rw [round_eq]
  simp only [rhaz, absRat_eq_abs, abs_of_nonneg nonneg, mkRat_one_two, if_neg (not_lt.2 nonneg)]
  rfl

/-- Every fact about `rhaz` is one about Mathlib's `round` at a value that is not negative, or its mirror image. -/
theorem rhaz_cases (q : Rat) : (0 ≤ q ∧ rhaz q = round q) ∨ (q < 0 ∧ rhaz q = -round (-q)) := by
  rcases le_or_gt 0 q with nonneg | neg
  · exact .inl ⟨nonneg, rhaz_of_nonneg nonneg⟩
  · refine .inr ⟨neg, ?_⟩
    rw [← rhaz_of_nonneg (by linarith), rhaz_neg, neg_neg]

theorem abs_sub_rhaz_le (q : Rat) : |rhaz q - q| ≤ 1 / 2 := by
  rcases rhaz_cases q with ⟨-, e⟩ | ⟨-, e⟩ <;> rw [e]
  · rw [abs_sub_comm]; exact abs_sub_round q
  · have := abs_sub_round (-q)
    rwa [show ((-round (-q) : Int) : Rat) - q = -q - round (-q) by push_cast; ring]

theorem rhaz_intCast (n : Int) : rhaz n = n := by
  rcases rhaz_cases n with ⟨-, e⟩ | ⟨-, e⟩ <;> rw [e]
  · simp
  · rw [← Int.cast_neg, round_intCast, neg_neg]

/-- A positive integer is reached from its lower midpoint on. -/
theorem le_rhaz_iff {n : Int} (pos : 0 < n) (q : Rat) : n ≤ rhaz q ↔ (n : Rat) - 1 / 2 ≤ q := by
  have : (1 : Rat) ≤ n := by exact_mod_cast pos
  rcases rhaz_cases q with ⟨-, e⟩ | ⟨neg, e⟩
  · rw [e, round_eq, Int.le_floor]
    exact ⟨fun h => by linarith, fun h => by linarith⟩
  · have : 0 ≤ round (-q) := by
      rw [round_eq]; exact Int.floor_nonneg.2 (by linarith)
    exact ⟨fun h => by omega, fun h => by linarith⟩

theorem rhaz_mono {p q : Rat} (h : p ≤ q) : rhaz p ≤ rhaz q := by
  by_contra! lt
  have step : (rhaz q : Rat) + 1 ≤ rhaz p := by exact_mod_cast lt
  have same : p = q := by linarith [abs_le.1 (abs_sub_rhaz_le p), abs_le.1 (abs_sub_rhaz_le q)]
  exact lt.ne (same ▸ rfl)

/-- R137: the range check accepts an open interval, as both ends round away from it. -/
theorem inI32_rhaz_iff (p : Rat) : inI32 (rhaz p) ↔ (-4294967297 / 2 : Rat) < p ∧ p < 4294967295 / 2 := by
  have upper := le_rhaz_iff (n := 2147483648) (by norm_num) p
  have lower := le_rhaz_iff (n := 2147483649) (by norm_num) (-p)
  rw [rhaz_neg] at lower
  push_cast at upper lower
  constructor
  · rintro ⟨low, high⟩
    constructor
    · by_contra! out
      have := lower.2 (by linarith)
      omega
    · by_contra! out
      have := upper.2 (by linarith)
      omega
  · rintro ⟨low, high⟩
    constructor
    · by_contra! out
      linarith [lower.1 (by omega)]
    · by_contra! out
      linarith [upper.1 (by omega)]

theorem roundToI32_eq_some_iff {p : Rat} {n : Int} : roundToI32 p = some n ↔ rhaz p = n ∧ inI32 n := by
  unfold roundToI32
  split
  · next ok => exact ⟨fun h => by cases h; exact ⟨rfl, ok⟩, fun h => by rw [h.1]⟩
  · next out => exact ⟨(fun h => by cases h), fun h => absurd (h.1 ▸ h.2) out⟩

end Sys2Proof.Machine
end

section
/-! Powers of two, the binary logarithm and the spacing of `RNE64` (42_scaler.md R133) in Mathlib's terms. -/

namespace Sys2Proof.Machine

theorem pow2_eq_zpow (k : Int) : pow2 k = (2 : Rat) ^ k := by
  unfold pow2
  split
  · next nonneg =>
    obtain ⟨n, rfl⟩ := Int.eq_ofNat_of_zero_le nonneg
    simp
  · next neg =>
    obtain ⟨n, hn⟩ := Int.eq_ofNat_of_zero_le (by omega : 0 ≤ -k)
    obtain rfl : k = -n := by omega
    simp [Rat.mkRat_eq_div]

/-- A larger power of two is an integer multiple of a smaller one. -/
theorem two_zpow_of_le {j k : Int} (h : j ≤ k) : (2 : Rat) ^ k = ((2 ^ (k - j).toNat : Int) : Rat) * 2 ^ j := by
  have : k = ((k - j).toNat : Int) + j := by omega
  conv_lhs => rw [this, zpow_add₀ two_ne_zero]
  push_cast
  rw [zpow_natCast]

theorem natCast_between_two_zpow {n : Nat} (pos : 0 < n) :
    (2 : Rat) ^ (n.log2 : Int) ≤ n ∧ (n : Rat) < 2 ^ ((n.log2 : Int) + 1) := by
  have low : 2 ^ n.log2 ≤ n := Nat.log2_self_le pos.ne'
  have high : n < 2 ^ (n.log2 + 1) := Nat.lt_log2_self
  exact ⟨by exact_mod_cast low, by exact_mod_cast high⟩

/-- The difference of the bit lengths of numerator and denominator is the logarithm or one above it. -/
theorem between_two_zpow_bitLengths {a : Rat} (pos : 0 < a) :
    (2 : Rat) ^ ((a.num.natAbs.log2 : Int) - a.den.log2 - 1) ≤ a ∧
      a < 2 ^ ((a.num.natAbs.log2 : Int) - a.den.log2 + 1) := by
  obtain ⟨numLow, numHigh⟩ := natCast_between_two_zpow (Int.natAbs_pos.2 (Rat.num_pos.2 pos).ne')
  obtain ⟨denLow, denHigh⟩ := natCast_between_two_zpow a.den_pos
  have quotient : a = (a.num.natAbs : Rat) / a.den := by
    conv_lhs => rw [← Rat.num_div_den a]
    rw [Nat.cast_natAbs, abs_of_pos (Rat.num_pos.2 pos)]
  constructor
  · calc (2 : Rat) ^ ((a.num.natAbs.log2 : Int) - a.den.log2 - 1)
        = 2 ^ (a.num.natAbs.log2 : Int) / 2 ^ ((a.den.log2 : Int) + 1) := by
          rw [← zpow_sub₀ two_ne_zero]; congr 1; ring
      _ ≤ (a.num.natAbs : Rat) / a.den := by gcongr
      _ = a := quotient.symm
  · calc a = (a.num.natAbs : Rat) / a.den := quotient
      _ < 2 ^ ((a.num.natAbs.log2 : Int) + 1) / 2 ^ (a.den.log2 : Int) := by gcongr
      _ = 2 ^ ((a.num.natAbs.log2 : Int) - a.den.log2 + 1) := by rw [← zpow_sub₀ two_ne_zero]; congr 1; ring

/-- `floorLog2` is Mathlib's integer logarithm: the comparison decides between the two candidates. -/
theorem floorLog2_eq_log {a : Rat} (pos : 0 < a) : floorLog2 a = Int.log 2 a := by
  obtain ⟨low, high⟩ := between_two_zpow_bitLengths pos
  have low := (Int.zpow_le_iff_le_log one_lt_two pos).1 low
  have high := (Int.lt_zpow_iff_log_lt one_lt_two pos).1 high
  simp only [floorLog2, pow2_eq_zpow]
  split
  · next le => have := (Int.zpow_le_iff_le_log one_lt_two pos).1 le; omega
  · next lt => have := (Int.lt_zpow_iff_log_lt one_lt_two pos).1 (not_le.1 lt); omega

/-- The exponent of `q` in R133, clamped at the subnormal range. -/
def binade (q : Rat) : Int := max (Int.log 2 |q|) (-1022)

theorem le_binade (q : Rat) : -1022 ≤ binade q := le_max_right _ _

theorem spacing_eq {q : Rat} (ne : q ≠ 0) : spacing q = 2 ^ (binade q - 52) := by
  rw [spacing, pow2_eq_zpow, absRat_eq_abs, floorLog2_eq_log (abs_pos.2 ne), binade]

theorem spacing_neg (q : Rat) : spacing (-q) = spacing q := by
  simp [spacing]

theorem spacing_abs (q : Rat) : spacing |q| = spacing q := by
  simp [spacing]

theorem spacing_pos (q : Rat) : 0 < spacing q := by
  rw [spacing, pow2_eq_zpow]; positivity

theorem abs_lt_two_zpow_binade (q : Rat) : |q| < 2 ^ (binade q + 1) :=
  (Int.lt_zpow_succ_log_self one_lt_two |q|).trans_le (zpow_le_zpow_right₀ one_le_two (by unfold binade; omega))

/-- Above the subnormal range the exponent is exact. -/
theorem two_zpow_binade_le {q : Rat} (ne : q ≠ 0) (normal : -1022 < binade q) : (2 : Rat) ^ binade q ≤ |q| := by
  have : binade q = Int.log 2 |q| := by unfold binade at *; omega
  rw [this]
  exact Int.zpow_log_le_self one_lt_two (abs_pos.2 ne)

/-- A binade starts at a significand of one bit. -/
theorem two_zpow_binade_eq {q : Rat} (ne : q ≠ 0) : (2 : Rat) ^ binade q = ((2 ^ 52 : Int) : Rat) * spacing q := by
  rw [spacing_eq ne, two_zpow_of_le (sub_le_self (binade q) (by norm_num : (0 : Int) ≤ 52)), sub_sub_cancel]
  rfl

end Sys2Proof.Machine
end

section
/-! `RNE64` (42_scaler.md R133) without its overflow check: the nearest point of the grid that the binary64 values
would be if the exponent had no upper end. -/

namespace Sys2Proof.Machine

/-- A binary64 value as R132 lists them, but for the upper end of the exponent. -/
def OnGrid (x : Rat) : Prop := ∃ m k : Int, |m| < 2 ^ 53 ∧ -1074 ≤ k ∧ x = m * 2 ^ k

/-- `RNE64(q)` before the overflow check, the sign taken along. -/
def nearest64 (q : Rat) : Rat := rneInt (q / spacing q) * spacing q

theorem nearest64_zero : nearest64 0 = 0 := by
  simp [nearest64]

theorem nearest64_neg (q : Rat) : nearest64 (-q) = -nearest64 q := by
  rw [nearest64, spacing_neg, neg_div, rneInt_neg, nearest64]
  push_cast
  ring

theorem nearest64_nonneg {q : Rat} (nonneg : 0 ≤ q) : 0 ≤ nearest64 q := by
  have quotient : 0 ≤ q / spacing q := div_nonneg nonneg (spacing_pos q).le
  have multiple : 0 ≤ rneInt (q / spacing q) := by
    by_contra! neg
    have : (rneInt (q / spacing q) : Rat) ≤ -1 := by exact_mod_cast Int.le_sub_one_of_lt neg
    linarith [abs_le.1 (abs_sub_rneInt_le (q / spacing q))]
  exact mul_nonneg (by exact_mod_cast multiple) (spacing_pos q).le

theorem abs_nearest64 (q : Rat) : |nearest64 q| = nearest64 |q| := by
  rcases le_total 0 q with nonneg | nonpos
  · rw [abs_of_nonneg nonneg, abs_of_nonneg (nearest64_nonneg nonneg)]
  · rw [abs_of_nonpos nonpos, nearest64_neg, ← abs_neg, ← nearest64_neg]
    exact abs_of_nonneg (nearest64_nonneg (neg_nonneg.2 nonpos))

/-- `RNE64` is `nearest64` with the overflow check. -/
theorem rne64_eq (q : Rat) : rne64 q = if (2 : Rat) ^ 1024 ≤ |nearest64 q| then none else some (nearest64 q) := by
  have limit : pow2 1024 = (2 : Rat) ^ 1024 := pow2_eq_zpow 1024
  by_cases zero : q = 0
  · subst zero
    rw [nearest64_zero, abs_zero, if_neg (not_le.2 (by positivity)), rne64, if_pos rfl]
  · simp only [rne64, if_neg zero, limit, absRat_eq_abs]
    have magnitude : (rneInt (|q| / spacing q) : Rat) * spacing q = nearest64 |q| := by rw [nearest64, spacing_abs]
    rw [magnitude, abs_nearest64]
    congr 2
    split
    · next neg => rw [abs_of_neg neg, nearest64_neg, neg_neg]
    · next nonneg => rw [abs_of_nonneg (not_lt.1 nonneg)]

theorem rne64_eq_some_iff {q p : Rat} : rne64 q = some p ↔ |nearest64 q| < 2 ^ 1024 ∧ nearest64 q = p := by
  rw [rne64_eq]
  split
  · next tooBig => simp [tooBig]
  · next within => simp [not_le.1 within]

theorem rne64_eq_none_iff {q : Rat} : rne64 q = none ↔ (2 : Rat) ^ 1024 ≤ |nearest64 q| := by
  rw [rne64_eq]; simp

/-- Scaling by the spacing turns distances to integers into distances to its multiples. -/
theorem abs_sub_mul_spacing (q : Rat) (m : Int) : |q - m * spacing q| = |q / spacing q - m| * spacing q := by
  have pos := spacing_pos q
  calc |q - m * spacing q| = |(q / spacing q - m) * spacing q| := by rw [sub_mul, div_mul_cancel₀ _ pos.ne']
    _ = |q / spacing q - m| * spacing q := by rw [abs_mul, abs_of_pos pos]

/-- Above the subnormal range a point of the grid is a multiple of the spacing near `q`, or smaller than all of `q`'s
binade. -/
theorem OnGrid.multiple_or_small {x : Rat} (grid : OnGrid x) {q : Rat} (ne : q ≠ 0) :
    (∃ m : Int, x = m * spacing q) ∨ (-1022 < binade q ∧ |x| < 2 ^ binade q) := by
  obtain ⟨m, k, small, low, rfl⟩ := grid
  rw [spacing_eq ne]
  rcases le_or_gt (binade q - 52) k with coarse | fine
  · exact .inl ⟨m * 2 ^ (k - (binade q - 52)).toNat, by rw [two_zpow_of_le coarse]; push_cast; ring⟩
  · refine .inr ⟨by omega, ?_⟩
    have small' : |(m : Rat)| < 2 ^ (53 : Int) := by exact_mod_cast small
    calc |(m : Rat) * 2 ^ k| = |(m : Rat)| * 2 ^ k := by rw [abs_mul, abs_of_pos (by positivity : (0 : Rat) < 2 ^ k)]
      _ < 2 ^ (53 : Int) * 2 ^ k := by gcongr
      _ = 2 ^ (53 + k) := (zpow_add₀ two_ne_zero _ _).symm
      _ ≤ 2 ^ binade q := zpow_le_zpow_right₀ one_le_two (by omega)

/-- No point of the grid is nearer, and of two equally near ones it is an even multiple of the spacing. -/
theorem OnGrid.nearest64_nearest {x : Rat} (grid : OnGrid x) (q : Rat) :
    |q - nearest64 q| ≤ |q - x| ∧
      (x ≠ nearest64 q → |q - x| = |q - nearest64 q| → Even (rneInt (q / spacing q))) := by
  by_cases ne : q = 0
  · subst ne
    simp only [nearest64_zero, sub_self, zero_sub, abs_neg, abs_zero]
    exact ⟨abs_nonneg x, fun other tie => absurd (abs_eq_zero.1 tie) other⟩
  have pos := spacing_pos q
  have multiples (m : Int) : |q - nearest64 q| ≤ |q - m * spacing q| := by
    rw [nearest64, abs_sub_mul_spacing, abs_sub_mul_spacing]
    exact mul_le_mul_of_nonneg_right (rneInt_nearest _ m).1 pos.le
  rcases grid.multiple_or_small ne with ⟨m, rfl⟩ | ⟨normal, small⟩
  · refine ⟨multiples m, fun other tie => (rneInt_nearest (q / spacing q) m).2 ?_ ?_⟩
    · rintro rfl; exact other rfl
    · rw [nearest64, abs_sub_mul_spacing, abs_sub_mul_spacing] at tie
      exact mul_right_cancel₀ pos.ne' tie
  · -- the end nearer to 0 of `q`'s binade is a multiple of the spacing, and nearer than `x`
    have nearer : |q - nearest64 q| < |q - x| := by
      have low := two_zpow_binade_le ne normal
      have lowEnd := two_zpow_binade_eq ne
      have toUpper := multiples (2 ^ 52)
      have toLower := multiples (-2 ^ 52)
      rw [← lowEnd] at toUpper
      rw [Int.cast_neg, neg_mul, ← lowEnd, sub_neg_eq_add] at toLower
      have := abs_lt.1 small
      rcases le_total 0 q with nonneg | nonpos
      · rw [abs_of_nonneg nonneg] at low
        rw [abs_of_nonneg (by linarith : 0 ≤ q - 2 ^ binade q)] at toUpper
        linarith [le_abs_self (q - x)]
      · rw [abs_of_nonpos nonpos] at low
        rw [abs_of_nonpos (by linarith : q + 2 ^ binade q ≤ 0)] at toLower
        linarith [neg_abs_le (q - x)]
    exact ⟨nearer.le, fun _ tie => absurd tie nearer.ne'⟩

/-- A multiple of a power of two of the grid, with one more bit than a significand has, is a point of the grid. -/
theorem onGrid_of_abs_le {m k : Int} (small : |m| ≤ 2 ^ 53) (low : -1074 ≤ k) : OnGrid (m * 2 ^ k) := by
  rcases small.lt_or_eq with lt | eq
  · exact ⟨m, k, lt, low, rfl⟩
  · rcases (abs_eq (by norm_num)).1 eq with rfl | rfl
    · exact ⟨2 ^ 52, k + 1, by norm_num, by omega, by rw [zpow_add_one₀ two_ne_zero]; push_cast; ring⟩
    · exact ⟨-2 ^ 52, k + 1, by norm_num, by omega, by rw [zpow_add_one₀ two_ne_zero]; push_cast; ring⟩

/-- The rounded quotient has at most the bits of a significand, or is the next power of two. -/
theorem abs_rneInt_div_spacing_le (q : Rat) : |rneInt (q / spacing q)| ≤ 2 ^ 53 := by
  by_cases zero : q = 0
  · rw [zero, zero_div, rneInt_zero]; norm_num
  have quotient : |q / spacing q| < 2 ^ 53 := by
    rw [abs_div, abs_of_pos (spacing_pos q), div_lt_iff₀ (spacing_pos q), spacing_eq zero, ← zpow_natCast,
      ← zpow_add₀ two_ne_zero]
    exact (abs_lt_two_zpow_binade q).trans_le (zpow_le_zpow_right₀ one_le_two (by push_cast; omega))
  have near := abs_sub_rneInt_le (q / spacing q)
  have : |(rneInt (q / spacing q) : Rat)| < 2 ^ 53 + 1 := by
    rw [abs_sub_comm] at near
    linarith [abs_sub_abs_le_abs_sub (rneInt (q / spacing q) : Rat) (q / spacing q)]
  exact Int.lt_add_one_iff.1 (by exact_mod_cast this)

theorem onGrid_nearest64 (q : Rat) : OnGrid (nearest64 q) := by
  by_cases zero : q = 0
  · exact ⟨0, 0, by norm_num, by norm_num, by rw [zero, nearest64_zero]; simp⟩
  · have small := abs_rneInt_div_spacing_le q
    rw [nearest64]
    generalize rneInt (q / spacing q) = m at small ⊢
    rw [spacing_eq zero]
    exact onGrid_of_abs_le small (by linarith [le_binade q])

/-- A point of the grid is its own rounding. -/
theorem OnGrid.nearest64_eq {x : Rat} (grid : OnGrid x) : nearest64 x = x := by
  have := (grid.nearest64_nearest x).1
  rw [sub_self, abs_zero] at this
  exact (sub_eq_zero.1 (abs_nonpos_iff.1 this)).symm

theorem nearest64_mono {p q : Rat} (h : p ≤ q) : nearest64 p ≤ nearest64 q := by
  by_contra! lt
  have hp := ((onGrid_nearest64 q).nearest64_nearest p).1
  have hq := ((onGrid_nearest64 p).nearest64_nearest q).1
  have low : nearest64 p + nearest64 q ≤ 2 * p := by nlinarith [sq_le_sq.2 hp]
  have high : 2 * q ≤ nearest64 p + nearest64 q := by nlinarith [sq_le_sq.2 hq]
  have same : p = q := by linarith
  exact lt.ne (same ▸ rfl)

/-- The rounding error is at most half the spacing. -/
theorem abs_sub_nearest64_le (q : Rat) : |q - nearest64 q| ≤ spacing q / 2 := by
  rw [nearest64, abs_sub_mul_spacing]
  linarith [mul_le_mul_of_nonneg_right (abs_sub_rneInt_le (q / spacing q)) (spacing_pos q).le]

theorem twoTo1024_eq : (2 : Rat) ^ 1024 = 2 ^ 54 * 2 ^ 970 := by rw [← pow_add]

theorem twoTo971_eq : (2 : Rat) ^ 971 = 2 * 2 ^ 970 := pow_succ' 2 970

theorem onGrid_largestFinite : OnGrid (2 ^ 1024 - 2 ^ 971) := by
  refine ⟨2 ^ 53 - 1, 971, by norm_num, by norm_num, ?_⟩
  rw [show (2 : Rat) ^ (971 : Int) = 2 ^ 971 from zpow_natCast 2 971, twoTo1024_eq, twoTo971_eq]
  generalize (2 : Rat) ^ 970 = ulp
  push_cast
  ring

/-- `RNE64` overflows exactly from the midpoint above the largest finite value on. -/
theorem le_abs_nearest64_iff_midpoint_le (q : Rat) :
    (2 : Rat) ^ 1024 ≤ |nearest64 q| ↔ (2 : Rat) ^ 1024 - 2 ^ 970 ≤ |q| := by
  rw [abs_nearest64]
  have pos : (0 : Rat) < 2 ^ 970 := by positivity
  constructor
  · intro tooBig
    by_contra! below
    have nearer := (onGrid_largestFinite.nearest64_nearest |q|).1
    have fixed := onGrid_largestFinite.nearest64_eq
    rw [twoTo971_eq] at nearer fixed
    rw [twoTo1024_eq] at nearer fixed tooBig below
    generalize (2 : Rat) ^ 970 = ulp at *
    rcases le_total |q| (2 ^ 54 * ulp - 2 * ulp) with le | ge
    · linarith [nearest64_mono le]
    · rw [abs_of_nonneg (sub_nonneg.2 ge)] at nearer
      linarith [neg_abs_le (|q| - nearest64 |q|)]
  · intro h
    have midpoint : rne64 (2 ^ 1024 - 2 ^ 970) = none := by decide +kernel
    have tooBig := rne64_eq_none_iff.1 midpoint
    rw [abs_nearest64, abs_of_nonneg (sub_nonneg.2 (pow_le_pow_right₀ one_le_two (by norm_num)))] at tooBig
    exact tooBig.trans (nearest64_mono h)

end Sys2Proof.Machine
end

section
/-! The binary64 patterns (42_scaler.md R132): a finite one is a point of the grid, and every point of the grid below
the overflow limit has a pattern, `patternOf`. -/

namespace Sys2Proof.Machine

/-- The significand of a finite pattern, hidden bit included (R132). -/
def significand (u : F64) : Nat := if expField u = 0 then fracField u else 2 ^ 52 + fracField u

/-- The exponent that goes with `significand`: subnormal patterns have that of the smallest normal ones (R132). -/
def significandExp (u : F64) : Int := max (expField u : Int) 1 - 1075

theorem fracField_lt (u : F64) : fracField u < 2 ^ 52 := BitVec.isLt _

theorem expField_lt (u : F64) : expField u < 2 ^ 11 := BitVec.isLt _

theorem significand_lt (u : F64) : significand u < 2 ^ 53 := by
  have := fracField_lt u
  unfold significand
  split <;> omega

theorem magnitude_eq (u : F64) : magnitude u = significand u * 2 ^ significandExp u := by
  unfold magnitude significand significandExp
  split
  · next zero => simp [zero, pow2_eq_zpow]
  · next nonzero => rw [pow2_eq_zpow, max_eq_left (by omega)]

theorem magnitude_nonneg (u : F64) : 0 ≤ magnitude u := by
  rw [magnitude_eq]; positivity

theorem val64_eq_fin_iff {u : F64} {x : Rat} :
    val64 u = .fin x ↔ expField u ≠ 2047 ∧ x = if u.getLsbD 63 then -magnitude u else magnitude u := by
  unfold val64
  by_cases special : expField u = 2047
  · rw [if_pos special]
    exact ⟨(fun h => by split at h <;> cases h), fun h => absurd special h.1⟩
  · rw [if_neg special, Val64.fin.injEq]
    exact ⟨fun h => ⟨special, h.symm⟩, fun h => h.2.symm⟩

theorem abs_of_val64 {u : F64} {x : Rat} (h : val64 u = .fin x) : |x| = significand u * 2 ^ significandExp u := by
  rw [← magnitude_eq, (val64_eq_fin_iff.1 h).2]
  split
  · rw [abs_neg, abs_of_nonneg (magnitude_nonneg u)]
  · rw [abs_of_nonneg (magnitude_nonneg u)]

theorem onGrid_neg {x : Rat} (h : OnGrid x) : OnGrid (-x) := by
  obtain ⟨m, k, small, low, rfl⟩ := h
  exact ⟨-m, k, by rwa [abs_neg], low, by push_cast; ring⟩

theorem onGrid_abs_iff {x : Rat} : OnGrid |x| ↔ OnGrid x := by
  rcases abs_choice x with e | e <;> rw [e]
  exact ⟨fun h => neg_neg x ▸ onGrid_neg h, onGrid_neg⟩

theorem onGrid_of_val64 {u : F64} {x : Rat} (h : val64 u = .fin x) : OnGrid x := by
  rw [← onGrid_abs_iff, abs_of_val64 h]
  refine ⟨significand u, significandExp u, ?_, by unfold significandExp; omega, by push_cast; rfl⟩
  rw [abs_of_nonneg (by positivity)]
  exact_mod_cast significand_lt u

theorem abs_lt_of_val64 {u : F64} {x : Rat} (h : val64 u = .fin x) : |x| < 2 ^ 1024 := by
  have finite := (val64_eq_fin_iff.1 h).1
  have bounded : significandExp u ≤ 971 := by
    have := expField_lt u
    unfold significandExp
    omega
  have small : (significand u : Rat) < 2 ^ (53 : Int) := by exact_mod_cast significand_lt u
  rw [abs_of_val64 h]
  calc (significand u : Rat) * 2 ^ significandExp u < 2 ^ (53 : Int) * 2 ^ significandExp u := by gcongr
    _ = 2 ^ (53 + significandExp u) := (zpow_add₀ two_ne_zero _ _).symm
    _ ≤ 2 ^ (1024 : Int) := zpow_le_zpow_right₀ one_le_two (by omega)
    _ = 2 ^ 1024 := zpow_natCast 2 1024

/-- A binary64 value is its own `RNE64`. -/
theorem rne64_of_val64 {u : F64} {x : Rat} (h : val64 u = .fin x) : rne64 x = some x := by
  have fixed := (onGrid_of_val64 h).nearest64_eq
  exact rne64_eq_some_iff.2 ⟨fixed.symm ▸ abs_lt_of_val64 h, fixed⟩

/-- An even multiple of a power of two, with at most one bit more than a significand, has an even significand. -/
theorem even_significand {u : F64} {m k : Int} (even : Even m) (small : |m| ≤ 2 ^ 53) (low : -1074 ≤ k)
    (h : val64 u = .fin (m * 2 ^ k)) : Even (significand u) := by
  have same : (|m| : Rat) * 2 ^ k = significand u * 2 ^ significandExp u := by
    rw [← abs_of_val64 h, abs_mul, abs_of_pos (by positivity : (0 : Rat) < 2 ^ k)]
  rcases le_or_gt (significandExp u) k with le | gt
  · -- `m` shifted left
    rw [two_zpow_of_le le, ← mul_assoc] at same
    have shifted : |m| * 2 ^ (k - significandExp u).toNat = significand u := by
      exact_mod_cast mul_right_cancel₀ (by positivity) same
    rw [← Int.even_coe_nat, ← shifted]
    exact (even_abs.2 even).mul_right _
  · -- a normal pattern shifted left, which leaves room for the hidden bit alone
    rw [two_zpow_of_le gt.le, ← mul_assoc] at same
    have shifted : |m| = significand u * 2 ^ (significandExp u - k).toNat := by
      exact_mod_cast mul_right_cancel₀ (by positivity) same
    have normal : 2 ^ 52 ≤ significand u := by
      have : expField u ≠ 0 := by unfold significandExp at gt; omega
      rw [significand, if_neg this]
      omega
    have double : 2 ^ 1 ≤ (2 : Int) ^ (significandExp u - k).toNat := pow_le_pow_right₀ one_le_two (by omega)
    have hidden : significand u = 2 ^ 52 := by
      zify at normal ⊢
      nlinarith
    rw [hidden]
    decide

theorem getLsbD_zero_of_even_significand {u : F64} (even : Even (significand u)) : u.getLsbD 0 = false := by
  have frac : Even (fracField u) := by
    unfold significand at even
    split at even
    · exact even
    · exact (Nat.even_add.1 even).1 (by decide)
  have last : fracField u % 2 = u.toNat % 2 := by
    unfold fracField
    rw [BitVec.extractLsb'_toNat, Nat.shiftRight_zero]
    omega
  rw [BitVec.getLsbD, Nat.testBit_zero, ← last, Nat.even_iff.1 frac]
  rfl

/-! ### The pattern of a sign, an exponent field and a fraction -/

section
variable (negative : Bool) (e : BitVec 11) (f : BitVec 52)

theorem expField_append : expField (BitVec.ofBool negative ++ e ++ f) = e.toNat := by
  unfold expField
  rw [BitVec.extractLsb'_append_eq_of_le (by decide), BitVec.extractLsb'_append_eq_of_add_le (by decide)]
  simp

theorem fracField_append : fracField (BitVec.ofBool negative ++ e ++ f) = f.toNat := by
  unfold fracField
  rw [BitVec.extractLsb'_append_eq_of_add_le (by decide)]
  simp

theorem getLsbD_63_append : (BitVec.ofBool negative ++ e ++ f).getLsbD 63 = negative := by
  rw [BitVec.getLsbD_append, BitVec.getLsbD_append]
  simp

end

/-- A magnitude on the grid is a multiple of its own spacing, by a significand. -/
theorem OnGrid.exists_significand {a : Rat} (grid : OnGrid a) (nonneg : 0 ≤ a) :
    ∃ m : Nat, m < 2 ^ 53 ∧ a = m * spacing a := by
  rcases nonneg.eq_or_lt with rfl | pos
  · exact ⟨0, by norm_num, by simp⟩
  rcases grid.multiple_or_small pos.ne' with ⟨m, e⟩ | ⟨normal, small⟩
  · have spos := spacing_pos a
    have mpos : 0 < m := by
      have : 0 < (m : Rat) * spacing a := e ▸ pos
      exact_mod_cast pos_of_mul_pos_left this spos.le
    obtain ⟨n, rfl⟩ := Int.eq_ofNat_of_zero_le mpos.le
    refine ⟨n, ?_, e⟩
    have bound := abs_lt_two_zpow_binade a
    rw [abs_of_pos pos, show binade a + 1 = 53 + (binade a - 52) by ring, zpow_add₀ two_ne_zero,
      ← spacing_eq pos.ne'] at bound
    have : (n : Rat) < 2 ^ (53 : Int) := lt_of_mul_lt_mul_right (e ▸ bound) spos.le
    exact_mod_cast this
  · exact absurd small (not_lt.2 (two_zpow_binade_le pos.ne' normal))

/-- Without the hidden bit, a magnitude is subnormal or zero. -/
theorem eq_mul_of_significand_lt {a : Rat} {m : Nat} (e : a = m * spacing a) (sub : m < 2 ^ 52) :
    a = m * 2 ^ (-1074 : Int) := by
  by_cases zero : a = 0
  · have : (m : Rat) = 0 := by simpa [zero, (spacing_pos 0).ne'] using e.symm
    rw [this, zero, zero_mul]
  have clamped : binade a = -1022 := by
    by_contra normal
    have low := two_zpow_binade_le zero (lt_of_le_of_ne (le_binade a) (Ne.symm normal))
    rw [two_zpow_binade_eq zero] at low
    have pos := spacing_pos a
    have nonneg : 0 ≤ a := e ▸ (by positivity)
    rw [abs_of_nonneg nonneg] at low
    have := le_of_mul_le_mul_right (low.trans_eq e) pos
    have : (2 : Int) ^ 52 ≤ m := by exact_mod_cast this
    omega
  rwa [spacing_eq zero, clamped] at e

/-- With the hidden bit, the exponent of a magnitude is that of R133, in the range of the normal patterns. -/
theorem binade_of_significand_ge {a : Rat} {m : Nat} (e : a = m * spacing a) (normal : 2 ^ 52 ≤ m)
    (small : a < 2 ^ 1024) :
    floorLog2 a = binade a ∧ -1022 ≤ binade a ∧ binade a ≤ 1023 ∧ a = m * 2 ^ (binade a - 52) := by
  have pos : 0 < a := by
    rw [e]
    exact mul_pos (by exact_mod_cast (by omega : 0 < m)) (spacing_pos a)
  have low : (2 : Rat) ^ binade a ≤ a := by
    rw [two_zpow_binade_eq pos.ne']
    conv_rhs => rw [e]
    exact mul_le_mul_of_nonneg_right (by exact_mod_cast normal) (spacing_pos a).le
  have atMost : binade a ≤ Int.log 2 a := (Int.zpow_le_iff_le_log one_lt_two pos).1 low
  have below : (2 : Rat) ^ binade a < 2 ^ (1024 : Int) := low.trans_lt (by exact_mod_cast small)
  have below := (zpow_lt_zpow_iff_right₀ one_lt_two).1 below
  refine ⟨?_, le_binade a, by omega, spacing_eq pos.ne' ▸ e⟩
  rw [floorLog2_eq_log pos]
  unfold binade at *
  rw [abs_of_pos pos] at *
  omega

/-- Every magnitude on the grid below the overflow limit is the value of its pattern. -/
theorem magnitude_patternOf (negative : Bool) {a : Rat} (grid : OnGrid a) (nonneg : 0 ≤ a) (small : a < 2 ^ 1024) :
    expField (patternOf negative a) ≠ 2047 ∧ magnitude (patternOf negative a) = a := by
  obtain ⟨m, hm, e⟩ := grid.exists_significand nonneg
  have floor : (a / spacing a).floor.toNat = m := by
    rw [(div_eq_iff (spacing_pos a).ne').2 e]
    exact congrArg Int.toNat (Int.floor_natCast (R := Rat) m)
  rw [magnitude]
  simp only [patternOf, floor]
  rw [expField_append, fracField_append, BitVec.toNat_ofNat, BitVec.toNat_ofNat]
  by_cases sub : m < 2 ^ 52
  · rw [if_pos sub, if_pos rfl, Nat.mod_eq_of_lt sub, pow2_eq_zpow, ← eq_mul_of_significand_lt e sub]
    exact ⟨by decide, rfl⟩
  · obtain ⟨log, low, high, value⟩ := binade_of_significand_ge e (not_lt.1 sub) small
    have field : (floorLog2 a + 1023).toNat % 2 ^ 11 = (binade a + 1023).toNat := by omega
    have frac : 2 ^ 52 + m % 2 ^ 52 = m := by omega
    have exponent : ((binade a + 1023).toNat : Int) - 1075 = binade a - 52 := by omega
    rw [if_neg sub, field, if_neg (by omega), frac, pow2_eq_zpow, exponent, ← value]
    exact ⟨by omega, rfl⟩

theorem getLsbD_63_patternOf (negative : Bool) (a : Rat) : (patternOf negative a).getLsbD 63 = negative :=
  getLsbD_63_append negative _ _

theorem val64_patternOf (negative : Bool) {a : Rat} (grid : OnGrid a) (nonneg : 0 ≤ a) (small : a < 2 ^ 1024) :
    val64 (patternOf negative a) = .fin (if negative then -a else a) := by
  obtain ⟨finite, value⟩ := magnitude_patternOf negative grid nonneg small
  rw [val64_eq_fin_iff, getLsbD_63_patternOf, value]
  exact ⟨finite, rfl⟩

/-- The binary64 values are the points of the grid below the overflow limit. -/
theorem exists_val64_iff {x : Rat} : (∃ u, val64 u = .fin x) ↔ OnGrid x ∧ |x| < 2 ^ 1024 := by
  refine ⟨fun ⟨u, h⟩ => ⟨onGrid_of_val64 h, abs_lt_of_val64 h⟩, fun ⟨grid, small⟩ => ?_⟩
  refine ⟨patternOf (decide (x < 0)) |x|, ?_⟩
  rw [val64_patternOf _ (onGrid_abs_iff.2 grid) (abs_nonneg x) small]
  rcases lt_or_ge x 0 with neg | nonneg
  · simp [neg, abs_of_neg neg]
  · simp [not_lt.2 nonneg, abs_of_nonneg nonneg]

end Sys2Proof.Machine
end

section
/-! `RNE64` is the rounding to the nearest binary64 value, ties to even (42_scaler.md R133). -/

namespace Sys2Proof.Machine

theorem rne64_neg (q : Rat) : rne64 (-q) = (rne64 q).map (-·) := by
  rw [rne64_eq, rne64_eq, nearest64_neg, abs_neg]
  split <;> rfl

theorem rne64_mono {q q' p p' : Rat} (le : q ≤ q') (h : rne64 q = some p) (h' : rne64 q' = some p') : p ≤ p' := by
  obtain ⟨-, rfl⟩ := rne64_eq_some_iff.1 h
  obtain ⟨-, rfl⟩ := rne64_eq_some_iff.1 h'
  exact nearest64_mono le

/-- What `RNE64` gives is a binary64 value, and none is nearer. -/
theorem rne64_spec {q p : Rat} (h : rne64 q = some p) :
    (∃ w : F64, val64 w = .fin p) ∧ ∀ (u : F64) (x : Rat), val64 u = .fin x → |q - p| ≤ |q - x| := by
  obtain ⟨small, rfl⟩ := rne64_eq_some_iff.1 h
  have pattern := exists_val64_iff.2 ⟨onGrid_nearest64 q, small⟩
  exact ⟨pattern, fun u x hu => ((onGrid_of_val64 hu).nearest64_nearest q).1⟩

/-- Where another binary64 value is as near, every pattern of the one taken has an even significand. -/
theorem rne64_tie_even {q p x : Rat} {u w : F64} (h : rne64 q = some p) (hw : val64 w = .fin p) (hu : val64 u = .fin x)
    (other : x ≠ p) (tie : |q - x| = |q - p|) : w.getLsbD 0 = false := by
  obtain ⟨-, rfl⟩ := rne64_eq_some_iff.1 h
  have even := ((onGrid_of_val64 hu).nearest64_nearest q).2 other tie
  have bits := abs_rneInt_div_spacing_le q
  have ne : q ≠ 0 := by
    rintro rfl
    rw [nearest64_zero, sub_zero, zero_sub, abs_zero, abs_neg, abs_eq_zero] at tie
    exact other (by rw [tie, nearest64_zero])
  rw [nearest64] at hw
  generalize rneInt (q / spacing q) = m at even bits hw
  rw [spacing_eq ne] at hw
  exact getLsbD_zero_of_even_significand (even_significand even bits (by linarith [le_binade q]) hw)

theorem rne64_eq_none_iff_midpoint_le {q : Rat} : rne64 q = none ↔ (2 : Rat) ^ 1024 - 2 ^ 970 ≤ |q| :=
  rne64_eq_none_iff.trans (le_abs_nearest64_iff_midpoint_le q)

/-- No rounding crosses a power of two of the grid. -/
theorem abs_nearest64_le_two_zpow {q : Rat} {k : Int} (low : -1074 ≤ k) (h : |q| ≤ 2 ^ k) : |nearest64 q| ≤ 2 ^ k := by
  have grid : OnGrid (2 ^ k) := ⟨1, k, by norm_num, low, by simp⟩
  rw [abs_nearest64, ← grid.nearest64_eq]
  exact nearest64_mono h

/-- The rounding error below a power of two: half the spacing there. -/
theorem abs_sub_nearest64_le_of_abs_lt {q : Rat} {k : Int} (low : -1022 ≤ k) (h : |q| < 2 ^ (k + 1)) :
    |q - nearest64 q| ≤ 2 ^ (k - 52) / 2 := by
  by_cases zero : q = 0
  · rw [zero, nearest64_zero, sub_zero, abs_zero]; positivity
  · have binade_le : binade q ≤ k := by
      have := (Int.lt_zpow_iff_log_lt one_lt_two (abs_pos.2 zero)).1 h
      unfold binade
      omega
    have : spacing q ≤ 2 ^ (k - 52) := spacing_eq zero ▸ zpow_le_zpow_right₀ one_le_two (by omega)
    linarith [abs_sub_nearest64_le q]

/-- Settles O32: `nearest64` is nearest on the grid, the grid's points below the limit are the binary64 values, and
monotonicity gives the extremes. -/
theorem rne64FixesBinary64ValuesAndExtremes : Obligations.Rne64FixesBinary64ValuesAndExtremes := by
  refine ⟨fun q p h => ?_, fun q => rne64_eq_none_iff_midpoint_le, fun u q => rne64_of_val64, fun q p small h => ?_,
    fun q h => ?_⟩
  · obtain ⟨pattern, nearest⟩ := rne64_spec h
    exact ⟨pattern, nearest, fun u w x hw hu => rne64_tie_even h hw hu⟩
  · obtain ⟨-, rfl⟩ := rne64_eq_some_iff.1 h
    exact abs_nearest64_le_two_zpow (by norm_num) small.le
  · refine le_trans ?_ (rne64_eq_none_iff_midpoint_le.1 h)
    have half : (2 : Rat) ^ 1024 = 2 * 2 ^ 1023 := pow_succ' 2 1023
    have below : (2 : Rat) ^ 970 ≤ 2 ^ 1023 := pow_le_pow_right₀ one_le_two (by norm_num)
    rw [show (2 : Rat) ^ (1023 : Int) = 2 ^ 1023 from zpow_natCast 2 1023, half]
    generalize (2 : Rat) ^ 1023 = top at *
    generalize (2 : Rat) ^ 970 = ulp at *
    linarith

end Sys2Proof.Machine
end

section
/-! `scale_round` (42_scaler.md R134, R142): the two roundings together. -/

namespace Sys2Proof.Machine

theorem val64_of_special {u : F64} (h : u.extractLsb' 52 11 = 2047) (q : Rat) : val64 u ≠ .fin q := fun hu =>
  (val64_eq_fin_iff.1 hu).1 (congrArg BitVec.toNat h)

theorem scaleRound_of_fin {u v : F64} {a b : Rat} (hu : val64 u = .fin a) (hv : val64 v = .fin b) :
    scaleRound u v = (rne64 (a * b)).bind roundToI32 := by
  simp only [scaleRound, hu, hv]

/-- Where the exact product is a binary64 value, it is range-checked as it is. -/
theorem scaleRound_of_exact {u v : F64} {a b : Rat} (hu : val64 u = .fin a) (hv : val64 v = .fin b)
    (exact64 : rne64 (a * b) = some (a * b)) : scaleRound u v = roundToI32 (a * b) := by
  rw [scaleRound_of_fin hu hv, exact64, Option.bind_some]

/-- Everything that leads to `Ok(n)`: finite inputs, a product that does not overflow, an integer in range. -/
theorem scaleRound_inv {u v : F64} {n : Int} (h : scaleRound u v = some n) :
    ∃ a b p, val64 u = .fin a ∧ val64 v = .fin b ∧ rne64 (a * b) = some p ∧ rhaz p = n ∧ inI32 n := by
  unfold scaleRound at h
  split at h
  · next a b hu hv =>
    obtain ⟨p, hp, hn⟩ := Option.bind_eq_some_iff.1 h
    exact ⟨a, b, p, hu, hv, hp, roundToI32_eq_some_iff.1 hn⟩
  · cases h

theorem scaleRound_inv_of_fin {u v : F64} {a b : Rat} {n : Int} (hu : val64 u = .fin a) (hv : val64 v = .fin b)
    (h : scaleRound u v = some n) : ∃ p, rne64 (a * b) = some p ∧ rhaz p = n ∧ inI32 n := by
  rw [scaleRound_of_fin hu hv] at h
  obtain ⟨p, hp, hn⟩ := Option.bind_eq_some_iff.1 h
  exact ⟨p, hp, roundToI32_eq_some_iff.1 hn⟩

theorem inI32_of_scaleRound {u v : F64} {n : Int} (h : scaleRound u v = some n) : inI32 n := by
  obtain ⟨-, -, -, -, -, -, -, range⟩ := scaleRound_inv h
  exact range

/-- Settles O29: an exponent field of 2047 is no rational, and `Ok` needs two. -/
theorem nonFiniteInputsOverflow : Obligations.NonFiniteInputsOverflow := by
  refine fun u v special => Option.eq_none_iff_forall_ne_some.2 fun n h => ?_
  obtain ⟨a, b, -, hu, hv, -⟩ := scaleRound_inv h
  rcases special with hs | hs
  · exact val64_of_special hs a hu
  · exact val64_of_special hs b hv

/-- Settles O30: the accepted interval is that of `rhaz`; the printed patterns are evaluated. -/
theorem scaleRangeBoundaries : Obligations.ScaleRangeBoundaries := by
  refine ⟨fun p => ?_, fun u v a b p hu hv hp => ?_, by decide +kernel⟩
  · rw [← inI32_rhaz_iff, roundToI32]
    by_cases range : inI32 (rhaz p)
    · rw [if_pos range]; exact iff_of_true rfl range
    · rw [if_neg range]; exact iff_of_false Bool.false_ne_true range
  · rw [scaleRound_of_fin hu hv, hp, Option.bind_some]

/-- Settles O31: the block's integers and those of a single rounding, evaluated. -/
theorem doubleRoundingIsObservable : Obligations.DoubleRoundingIsObservable := by
  unfold Obligations.DoubleRoundingIsObservable
  decide +kernel

theorem rne64_intCast {n : Int} (small : |n| < 2 ^ 53) : rne64 n = some (n : Rat) := by
  have grid : OnGrid n := ⟨n, 0, small, by norm_num, by simp⟩
  have bound : |(n : Rat)| < 2 ^ 53 := by exact_mod_cast small
  have limit : (2 : Rat) ^ 53 ≤ 2 ^ 1024 := pow_le_pow_right₀ one_le_two (by norm_num)
  exact rne64_eq_some_iff.2 ⟨grid.nearest64_eq.symm ▸ bound.trans_le limit, grid.nearest64_eq⟩

/-- Settles O33: in each case the exact product is its own `RNE64`. -/
theorem exactProductsAreRoundedOnce : Obligations.ExactProductsAreRoundedOnce := by
  refine ⟨fun u v a b n hu hv product small low high => ?_,
    fun u v w a b hu hv hw => scaleRound_of_exact hu hv (rne64_of_val64 hw), fun u a hu => ?_⟩
  · rw [scaleRound_of_exact hu hv (product ▸ rne64_intCast small), product]
    exact roundToI32_eq_some_iff.2 ⟨rhaz_intCast n, by omega, by omega⟩
  · have one : val64 0x3FF0000000000000 = .fin 1 := by decide +kernel
    simpa using scaleRound_of_exact hu one (by simpa using rne64_of_val64 hu)

/-- Settles O34: the product with a scale of at least 0, `RNE64` and `rhaz` are each monotone. -/
theorem scaleRoundIsMonotone : Obligations.ScaleRoundIsMonotone := by
  intro u u' v a a' b n n' hu hu' hv le scale h h'
  obtain ⟨p, hp, rfl, -⟩ := scaleRound_inv_of_fin hu hv h
  obtain ⟨p', hp', rfl, -⟩ := scaleRound_inv_of_fin hu' hv h'
  exact rhaz_mono (rne64_mono (mul_le_mul_of_nonneg_right le scale) hp hp')

/-- The sign bit of a finite pattern negates its value (R132). -/
theorem val64_flipSign {u : F64} {a : Rat} (h : val64 u = .fin a) : val64 (u ^^^ 0x8000000000000000) = .fin (-a) := by
  have e : expField (u ^^^ 0x8000000000000000) = expField u := by
    simp [expField, BitVec.extractLsb'_xor]
  have f : fracField (u ^^^ 0x8000000000000000) = fracField u := by
    simp [fracField, BitVec.extractLsb'_xor]
  have s : (u ^^^ 0x8000000000000000).getLsbD 63 = !u.getLsbD 63 := by
    simp
  obtain ⟨finite, rfl⟩ := val64_eq_fin_iff.1 h
  have m : magnitude (u ^^^ 0x8000000000000000) = magnitude u := by rw [magnitude, magnitude, e, f]
  rw [val64_eq_fin_iff, e, m, s]
  refine ⟨finite, ?_⟩
  cases u.getLsbD 63 <;> simp

/-- Settles O35: `RNE64` and `rhaz` are odd, and the range is symmetric but for its lower end. -/
theorem scaleRoundIsOdd : Obligations.ScaleRoundIsOdd := by
  intro u v n h notLowest
  obtain ⟨a, b, p, hu, hv, hp, rfl, low, high⟩ := scaleRound_inv h
  rw [scaleRound_of_fin (val64_flipSign hu) hv, neg_mul, rne64_neg, hp]
  exact roundToI32_eq_some_iff.2 ⟨rhaz_neg p, by omega, by omega⟩

/-- Settles O36: `RNE64` is off by at most `2^(-22)` in the i32 range, `rhaz` by at most 1/2. -/
theorem scaleRoundErrorBound : Obligations.ScaleRoundErrorBound := by
  intro u v a b n hu hv h
  obtain ⟨p, hp, rfl, range⟩ := scaleRound_inv_of_fin hu hv h
  obtain ⟨-, rfl⟩ := rne64_eq_some_iff.1 hp
  have rounded : |nearest64 (a * b)| < 2 ^ 32 := by
    obtain ⟨low, high⟩ := (inI32_rhaz_iff _).1 range
    exact abs_lt.2 ⟨by linarith, by linarith⟩
  have exactProduct : |a * b| < 2 ^ 32 := by
    by_contra! large
    have grid : OnGrid (2 ^ 32) := ⟨2 ^ 32, 0, by norm_num, by norm_num, by norm_num⟩
    rw [abs_nearest64] at rounded
    exact absurd (grid.nearest64_eq.symm.trans_le (nearest64_mono large)) (not_le.2 rounded)
  have first := abs_sub_nearest64_le_of_abs_lt (k := 31) (by norm_num) (by exact_mod_cast exactProduct)
  rw [abs_sub_comm] at first
  calc |(rhaz (nearest64 (a * b)) : Rat) - a * b|
      ≤ |(rhaz (nearest64 (a * b)) : Rat) - nearest64 (a * b)| + |nearest64 (a * b) - a * b| := abs_sub_le _ _ _
    _ ≤ 1 / 2 + 2 ^ ((31 : Int) - 52) / 2 := add_le_add (abs_sub_rhaz_le _) first
    _ = 1 / 2 + 1 / 2 ^ 22 := by norm_num

end Sys2Proof.Machine
end

section
/-! `SCALE` (42_scaler.md R136, R138). -/

namespace Sys2Proof.Machine

theorem scalePayload_of_noCommand {s : State} (tab : CmdTab) (h : s.cmdv = false) :
    s.scalePayload tab = s.raise .messageIncomplete := by
  rw [State.scalePayload, h]
  rfl

theorem scalePayload_of_some {s : State} {tab : CmdTab} {n : Int} (cmdv : s.cmdv = true)
    (h : scaleRound s.val (scaleFor tab s.cmd) = some n) :
    s.scalePayload tab = { s with raw := BitVec.ofInt 32 n, rawv := true, lasterr := 0 } := by
  rw [State.scalePayload, cmdv, h]
  rfl

theorem scalePayload_of_none {s : State} {tab : CmdTab} (cmdv : s.cmdv = true)
    (h : scaleRound s.val (scaleFor tab s.cmd) = none) : s.scalePayload tab = s.raise .payloadOverflow := by
  rw [State.scalePayload, cmdv, h]
  rfl

/-- A payload in range is the integer its bits stand for. -/
theorem toInt_ofInt_of_inI32 {n : Int} (h : inI32 n) : (BitVec.ofInt 32 n).toInt = n := by
  rw [BitVec.toInt_ofInt]
  exact Int.bmod_eq_of_le (by simpa using h.1) (by simpa using Int.lt_add_one_of_le h.2)

/-- Settles O27: the three ends of `State.scalePayload`, with the scale of the selected row. -/
theorem scaleStoresThePayloadOrReports : Obligations.ScaleStoresThePayloadOrReports := by
  refine ⟨by decide, fun s => ?_⟩
  have scale {r : CmdRow} (row : r ∈ Config.cmdtab.rows) (id : r.id = s.cmd) :
      scaleFor Config.cmdtab s.cmd = r.scale := id ▸ scaleFor_of_mem _ r row
  refine ⟨fun noCommand => ?_, fun r n cmdv row id ok => ⟨?_, toInt_ofInt_of_inI32 (inI32_of_scaleRound ok)⟩,
    fun r cmdv row id overflow => ?_⟩
  · exact congrArg Host.Outcome.next (scalePayload_of_noCommand _ noCommand)
  · exact congrArg Host.Outcome.next (scalePayload_of_some cmdv (scale row id ▸ ok))
  · exact congrArg Host.Outcome.next (scalePayload_of_none cmdv (scale row id ▸ overflow))

theorem exec_encoder_of_notReady {i : Instr} {s : State} (encoder : i = .encUart ∨ i = .encCan)
    (h : s.messageReady = false) : exec i s = .next (s.raise .messageIncomplete) := by
  rcases encoder with rfl | rfl
  · simpa [exec, h] using execEncUart_cases s
  · simpa [exec, h] using execEncCan_cases s

/-- Settles O28: `LASTERR` 1 singles out the overflow, which clears `RAWV`, so no Message is left to encode (R226). -/
theorem failedScaleBlocksTheEncoders : Obligations.FailedScaleBlocksTheEncoders := by
  intro i s t h code encoder
  cases h
  rcases scalePayload_cases s Config.cmdtab with ⟨-, e⟩ | ⟨n, -, -, e⟩ | ⟨-, -, e⟩ <;> rw [e] at code ⊢
  · simp [errNumber] at code
  · simp at code
  · exact ⟨rfl, rfl, exec_encoder_of_notReady encoder (Bool.and_false _)⟩

end Sys2Proof.Machine
end


section
/-! The UART frame (43_uart_frame.md): its ten bytes, and what `ENC.UART` submits and leaves. -/

namespace Sys2Proof.Machine

/-- A field of a word, as a quotient of the word's number. -/
theorem extractLsb'_eq_ofNat_div {n : Nat} (x : BitVec n) (start len : Nat) :
    x.extractLsb' start len = BitVec.ofNat len (x.toNat / 2 ^ start) := by
  rw [← Nat.shiftRight_eq_div_pow]
  rfl

/-- The bytes of a payload, high first (R153). -/
theorem be32_eq (u : Word) :
    be32 u = [BitVec.ofNat 8 (u.toNat / 2 ^ 24), BitVec.ofNat 8 (u.toNat / 2 ^ 16),
      BitVec.ofNat 8 (u.toNat / 2 ^ 8), BitVec.ofNat 8 u.toNat] := by
  simp [be32, extractLsb'_eq_ofNat_div]

/-- The bytes of a checksum, high first (R154). -/
theorem be16_eq (c : Half) : be16 c = [BitVec.ofNat 8 (c.toNat / 256), BitVec.ofNat 8 c.toNat] := by
  simp [be16, extractLsb'_eq_ofNat_div]

/-- The high and the low byte make up the checksum. -/
theorem toNat_eq_be16_bytes (c : Half) :
    c.toNat = ((be16 c).getD 0 0).toNat * 256 + ((be16 c).getD 1 0).toNat := by
  simp only [be16_eq, List.getD_cons_zero, List.getD_cons_succ, BitVec.toNat_ofNat]
  omega

/-- The four bytes give back the payload (R158). -/
theorem be32_injective : Function.Injective be32 := by
  intro u v same
  simp only [be32_eq, List.cons.injEq, and_true, ← BitVec.toNat_inj, BitVec.toNat_ofNat] at same
  obtain ⟨byte3, byte2, byte1, byte0⟩ := same
  apply BitVec.eq_of_toNat_eq
  omega

/-- Bytes 3 to 7 give back the command and the payload (R158). -/
theorem uartBody_inj {cmd cmd' : Byte} {raw raw' : Word} (same : uartBody cmd raw = uartBody cmd' raw') :
    cmd = cmd' ∧ raw = raw' := by
  obtain ⟨id, payload⟩ := List.cons.inj same
  exact ⟨add_right_cancel id, be32_injective payload⟩

/-- Settles O38: the checksum of bytes 3 to 7 stands in bytes 8 and 9, and bytes 3 to 7 already tell the frames apart. -/
theorem uartFrameIsValidAndInjective : Obligations.UartFrameIsValidAndInjective := by
  refine ⟨fun cmd raw => ⟨rfl, uartFrameValid_uartFrame cmd raw⟩, fun cmd cmd' raw raw' same => uartBody_inj ?_⟩
  calc uartBody cmd raw = ((uartFrame cmd raw).drop 2).take 5 := (uartFrame_checksummed cmd raw).symm
    _ = ((uartFrame cmd' raw').drop 2).take 5 := by rw [same]
    _ = uartBody cmd' raw' := uartFrame_checksummed cmd' raw'

/-- The command byte is the id plus 5 (R152), then the payload's bytes follow. -/
theorem uartBody_eq (cmd : Byte) (raw : Word) : uartBody cmd raw = BitVec.ofNat 8 (cmd.toNat + 5) :: be32 raw := by
  have offset : cmd + uartCmdOffset = BitVec.ofNat 8 (cmd.toNat + 5) := by
    rw [BitVec.ofNat_add, BitVec.ofNat_toNat, BitVec.setWidth_eq]
    rfl
  rw [uartBody, offset]

/-- Settles O37: the frame is its preamble, its body, the body's checksum and its terminator, each byte a quotient. -/
theorem uartFrameLayout : Obligations.UartFrameLayout := by
  intro cmd raw _
  simp only [uartFrame, uartPreamble, uartTerminator, be16_eq, uartBody_eq, be32_eq]

theorem execEncUart_of_cmdIdRange {s : State} (ready : s.messageReady = true) (above : uartMaxCommand < s.cmd) :
    execEncUart s = .next (s.raise .cmdIdRange) := by
  rcases execEncUart_cases s with ⟨notReady, -⟩ | ⟨-, -, e⟩ | ⟨-, inRange, -⟩
  · rw [ready] at notReady; cases notReady
  · exact e
  · exact absurd above (BitVec.not_lt.2 inRange)

/-- Settles O39: `ENC.UART` ends in its first check, in its second, or submits; a submission concludes as the answer
says and keeps the checksum that was put in `CRC` before it. -/
theorem encUartReportsOrSubmits : Obligations.EncUartReportsOrSubmits := by
  refine ⟨by decide, fun s => ⟨fun missing => ?_, fun cmdv rawv above => ?_, fun cmdv rawv inRange => ?_⟩⟩
  · exact exec_encoder_of_notReady (.inl rfl) (Bool.and_eq_false_iff.2 missing)
  · exact execEncUart_of_cmdIdRange (messageReady_of_valid cmdv rawv) above
  · have submitted := execEncUart_of_ready (messageReady_of_valid cmdv rawv) inRange
    have checksum := toNat_eq_be16_bytes (crc16 (uartBody s.cmd s.raw))
    obtain ⟨a, as, d, -, e⟩ := submitAndConclude_eq { s with crc := crc16 (uartBody s.cmd s.raw) }
      (.uart (uartFrame s.cmd s.raw))
    rw [e] at submitted
    refine ⟨a, _, submitted, ?_⟩
    cases a with
    | ok => exact ⟨rfl, checksum, by simp, by simp, rfl, rfl, rfl, rfl, rfl, rfl, rfl⟩
    | err w => exact ⟨rfl, checksum, by simp, by simp, rfl, rfl, rfl, rfl, rfl, rfl, rfl⟩

/-- What `ENC.UART` appends to `OUT`. -/
def uartEvents (s : State) : List OutEvent :=
  if s.messageReady = true ∧ s.cmd ≤ uartMaxCommand then [.uart (uartFrame s.cmd s.raw) s.nextAnswer] else []

theorem execEncUart_out {s t : State} (h : execEncUart s = .next t) : t.out = s.out ++ uartEvents s := by
  rcases execEncUart_cases s with ⟨notReady, e⟩ | ⟨-, above, e⟩ | ⟨ready, inRange, e⟩ <;> cases e.symm.trans h
  · simp [uartEvents, notReady]
  · simp [uartEvents, BitVec.not_le.2 above]
  · rw [submitAndConclude_out, uartEvents, if_pos ⟨ready, inRange⟩]
    rfl

/-- Settles O41: the events are a function of the Message's command and payload, their flags and the next answer. -/
theorem uartSubmissionIgnoresTheRest : Obligations.UartSubmissionIgnoresTheRest := by
  intro s s' t t' cmd raw cmdv rawv answers draws h h'
  have same : uartEvents s' = uartEvents s := by
    rw [uartEvents, State.messageReady, cmd, raw, cmdv, rawv, nextAnswer_congr answers draws]
    rfl
  exact ⟨uartEvents s, execEncUart_out h, same ▸ execEncUart_out h'⟩

/-- The next answer is the oldest the environment fixed, or, where it fixed none, the free one; taking it uses it up
(log 2). -/
theorem nextAnswer_and_answerTaken {s : State} {a : SinkAnswer} {as : List SinkAnswer} {d : Nat}
    (drawn : (s.answers = a :: as ∧ d = s.draws) ∨
      (s.answers = [] ∧ as = [] ∧ a = Config.sinkAnswer s.draws ∧ d = s.draws + 1)) :
    s.nextAnswer = a ∧ s.answerTaken = { s with answers := as, draws := d } := by
  rcases drawn with ⟨fixed, rfl⟩ | ⟨none, rfl, rfl, rfl⟩
  · exact ⟨nextAnswer_of_answers s a as fixed, answerTaken_of_answers s a as fixed⟩
  · refine ⟨nextAnswer_of_none s none, ?_⟩
    rw [answerTaken_of_none s none, ← none]

/-- A submission whose answer is known: the event, the answer used up, and the answer's effect (R156, R176). -/
theorem submitAndConclude_of_answer {s : State} {a : SinkAnswer} {as : List SinkAnswer} {d : Nat}
    (ev : SinkAnswer → OutEvent) (answer : s.nextAnswer = a)
    (taken : s.answerTaken = { s with answers := as, draws := d }) :
    s.submitAndConclude ev =
      { s with out := s.out ++ [ev a], answers := as, draws := d }.concludeSubmit a := by
  rw [State.submitAndConclude, State.submit, answer, taken]

/-- Settles O40: the checksum goes to `CRC`, and the drawn answer decides the rest. -/
theorem encUartExactNextState : Obligations.EncUartExactNextState := by
  intro s a as d cmdv rawv inRange drawn
  obtain ⟨answer, taken⟩ := nextAnswer_and_answerTaken
    (s := { s with crc := crc16 (uartBody s.cmd s.raw) }) drawn
  refine (execEncUart_of_ready (messageReady_of_valid cmdv rawv) inRange).trans ?_
  rw [submitAndConclude_of_answer _ answer taken, uartBody_eq]
  cases a <;> rfl

end Sys2Proof.Machine
end

section
/-! The CAN frame (44_can_frame.md): its identifier, its trimmed payload, and what `ENC.CAN` submits and leaves. -/

namespace Sys2Proof.Machine

/-- Settles O42: the identifier is a number of two digits to base 256, and each field is a quotient of it. -/
theorem canIdentifierLayout : Obligations.CanIdentifierLayout := by
  intro cmd tid
  refine ⟨canId_toNat cmd tid, ?_, ?_, ?_⟩ <;>
  · rw [extractLsb'_eq_ofNat_div, canId_toNat]
    apply BitVec.eq_of_toNat_eq
    simp only [BitVec.ofNat_eq_ofNat, BitVec.toNat_ofNat]
    omega

theorem canId_lt (cmd tid : Byte) : (canId cmd tid).toNat < 2 ^ 16 := by
  rw [canId_toNat]; omega

theorem canId_inj {cmd cmd' tid tid' : Byte} (same : canId cmd tid = canId cmd' tid') : cmd = cmd' ∧ tid = tid' := by
  obtain ⟨-, low, high, -⟩ := canIdentifierLayout cmd tid
  obtain ⟨-, low', high', -⟩ := canIdentifierLayout cmd' tid'
  exact ⟨by rw [← high, same, high'], by rw [← low, same, low']⟩

/-- What a receiver that zero-extends reads from a frame's data (R177). -/
def bigEndian (bytes : List Byte) : Nat := bytes.foldl (fun acc b => acc * 256 + b.toNat) 0

theorem bigEndian_concat (bytes : List Byte) (b : Byte) :
    bigEndian (bytes ++ [b]) = bigEndian bytes * 256 + b.toNat := by
  rw [bigEndian, List.foldl_append]; rfl

/-- The first byte is the most significant digit. -/
theorem bigEndian_cons (b : Byte) (bytes : List Byte) :
    bigEndian (b :: bytes) = b.toNat * 256 ^ bytes.length + bigEndian bytes := by
  induction bytes using List.reverseRecOn with
  | nil => simp [bigEndian]
  | append_singleton bytes last ih =>
    rw [← List.cons_append, bigEndian_concat, bigEndian_concat, ih, List.length_append, List.length_singleton, pow_succ]
    ring

theorem bigEndian_lt (bytes : List Byte) : bigEndian bytes < 256 ^ bytes.length := by
  induction bytes using List.reverseRecOn with
  | nil => simp [bigEndian]
  | append_singleton bytes last ih =>
    rw [bigEndian_concat, List.length_append, List.length_singleton, pow_succ]
    omega

/-- Bytes that do not start with zero make a number that fills them. -/
theorem le_bigEndian {bytes : List Byte} (nonempty : bytes ≠ []) (first : bytes.head? ≠ some 0) :
    256 ^ (bytes.length - 1) ≤ bigEndian bytes := by
  cases bytes with
  | nil => exact absurd rfl nonempty
  | cons b rest =>
    have pos : 0 < b.toNat := Nat.pos_of_ne_zero fun zero =>
      first (congrArg some (BitVec.eq_of_toNat_eq zero))
    rw [bigEndian_cons]
    exact (Nat.le_mul_of_pos_left _ pos).trans (Nat.le_add_right _ _)

theorem bigEndian_be32 (u : Word) : bigEndian (be32 u) = u.toNat := by
  simp only [be32_eq, bigEndian, List.foldl_cons, List.foldl_nil, BitVec.toNat_ofNat]
  omega

/-- Leading zeros have no weight. -/
theorem bigEndian_replicate_zero_append (n : Nat) (bytes : List Byte) :
    bigEndian (List.replicate n 0 ++ bytes) = bigEndian bytes := by
  induction n with
  | zero => rfl
  | succ n ih => rw [List.replicate_succ, List.cons_append, bigEndian_cons, ih]; simp

/-- Trimming removes leading zeros and nothing else (R172). -/
theorem replicate_zero_append_trimZeros (bytes : List Byte) : ∃ n, List.replicate n 0 ++ trimZeros bytes = bytes := by
  induction bytes using trimZeros.induct with
  | case1 c rest ih =>
    obtain ⟨n, e⟩ := ih
    refine ⟨n + 1, ?_⟩
    rw [trimZeros, if_pos rfl, List.replicate_succ, List.cons_append, e]
  | case2 b c rest nonzero => exact ⟨0, by rw [trimZeros, if_neg nonzero]; rfl⟩
  | case3 bytes single => exact ⟨0, by rw [trimZeros]; exacts [rfl, single]⟩

theorem trimZeros_suffix (bytes : List Byte) : trimZeros bytes <:+ bytes := by
  obtain ⟨n, e⟩ := replicate_zero_append_trimZeros bytes
  exact ⟨_, e⟩

/-- The data give back the payload (R177). -/
theorem bigEndian_canPayload (raw : Word) : bigEndian (canPayload raw) = raw.toNat := by
  obtain ⟨n, e⟩ := replicate_zero_append_trimZeros (be32 raw)
  rw [canPayload, ← bigEndian_replicate_zero_append n, e, bigEndian_be32]

theorem canPayload_injective : Function.Injective canPayload := fun raw raw' same =>
  BitVec.eq_of_toNat_eq (by rw [← bigEndian_canPayload, same, bigEndian_canPayload])

/-- The data are as many bytes as the payload needs: their number fills them, unless there is one (R172). -/
theorem canPayload_length (raw : Word) : (canPayload raw).length =
    if raw.toNat < 2 ^ 8 then 1 else if raw.toNat < 2 ^ 16 then 2 else if raw.toNat < 2 ^ 24 then 3 else 4 := by
  obtain ⟨one, four, first⟩ := canPayload_spec raw
  have upper := bigEndian_lt (canPayload raw)
  have lower := first.imp_right (le_bigEndian (List.ne_nil_of_length_pos one))
  rw [bigEndian_canPayload] at upper lower
  generalize (canPayload raw).length = n at one four upper lower
  interval_cases n <;> split_ifs <;> omega

/-- Settles O43: trimming keeps the end of the four bytes, as long as the payload's size says. -/
theorem canPayloadTrimsLeadingZeroBytes : Obligations.CanPayloadTrimsLeadingZeroBytes :=
  ⟨fun raw => ⟨List.suffix_iff_eq_drop.1 (trimZeros_suffix (be32 raw)), canPayload_length raw⟩, by decide⟩

/-- Settles O44: the identifier's fields and the number the data make are the Message. -/
theorem canFrameIsReversible : Obligations.CanFrameIsReversible := by
  intro cmd tid raw
  obtain ⟨one, four, first⟩ := canPayload_spec raw
  refine ⟨one, four, first, canId_lt cmd tid, bigEndian_canPayload raw, fun cmd' tid' raw' sameId sameData => ?_⟩
  obtain ⟨sameCmd, sameTid⟩ := canId_inj sameId
  exact ⟨sameCmd, sameTid, canPayload_injective sameData⟩

theorem execEncCan_of_ready {s : State} (ready : s.messageReady = true) (tidv : s.tidv = true) :
    execEncCan s = .next (s.submitAndConclude (.can (canId s.cmd s.tid) (canPayload s.raw))) := by
  rcases execEncCan_cases s with ⟨notReady, -⟩ | ⟨-, noTid, -⟩ | ⟨-, -, e⟩
  · rw [ready] at notReady; cases notReady
  · rw [tidv] at noTid; cases noTid
  · exact e

/-- The identifier leaves bits 31:29 of its container zero (R61). -/
theorem canFrame_container_lt (id : BitVec 29) (data : List Byte) : (canFrame id data).container.toNat < 2 ^ 29 :=
  (BitVec.toNat_setWidth_of_le (by decide)).trans_lt id.isLt

/-- Settles O45: `ENC.CAN` ends in its first check, in its second, or submits; a submission concludes as the answer
says. -/
theorem encCanReportsOrSubmits : Obligations.EncCanReportsOrSubmits := by
  refine ⟨by decide, fun s => ⟨fun missing => ?_, fun cmdv rawv noTid => ?_, fun cmdv rawv tidv => ?_⟩⟩
  · exact exec_encoder_of_notReady (.inr rfl) (Bool.and_eq_false_iff.2 missing)
  · refine (execEncCan_of_noTid noTid).trans ?_
    rw [messageReady_of_valid cmdv rawv]
    rfl
  · have submitted := execEncCan_of_ready (messageReady_of_valid cmdv rawv) tidv
    obtain ⟨a, as, d, -, e⟩ := submitAndConclude_eq s (.can (canId s.cmd s.tid) (canPayload s.raw))
    rw [e] at submitted
    refine ⟨a, _, submitted, ?_⟩
    have container := canFrame_container_lt (canId s.cmd s.tid) (canPayload s.raw)
    cases a with
    | ok => exact ⟨rfl, rfl, rfl, rfl, container, by simp, by simp, rfl, rfl, rfl, rfl, rfl, rfl, rfl, rfl⟩
    | err w => exact ⟨rfl, rfl, rfl, rfl, container, by simp, by simp, rfl, rfl, rfl, rfl, rfl, rfl, rfl, rfl⟩

/-- Settles O46: the drawn answer decides the rest. -/
theorem encCanExactNextState : Obligations.EncCanExactNextState := by
  intro s a as d cmdv rawv tidv drawn
  obtain ⟨answer, taken⟩ := nextAnswer_and_answerTaken drawn
  refine (execEncCan_of_ready (messageReady_of_valid cmdv rawv) tidv).trans ?_
  rw [submitAndConclude_of_answer _ answer taken]
  cases a <;> rfl

end Sys2Proof.Machine
end

section
/-! The error record (45_system_ops.md R190): the sticky bits of `ERRS` stay set except in `ERR.CLR` and a reset. -/

namespace Sys2Proof.Machine

/-- Setting further bits keeps those that are set. -/
theorem and_or_absorb {n : Nat} (x y : BitVec n) : x &&& (x ||| y) = x := by
  ext
  simpa using Or.inl

/-- An operation that records an error sets its bit; only `ERR.CLR` writes zeros to `ERRS`. -/
theorem ExecCase.keeps_errs {s t : State} {i : Instr} (h : ExecCase s i t) (other : i ≠ .errClr) :
    s.errs &&& t.errs = s.errs := by
  cases h with
  | crcInit | crcByte | selected | tidSet | tidClr | scaled | accepted => exact BitVec.and_self
  | badCommand | overflow | incomplete | cmdIdRange | missingTargetId | transportError => exact and_or_absorb _ _
  | errClr => exact absurd rfl other

/-- A step that clears a bit of `ERRS` served a reset or completed an `ERR.CLR`. -/
theorem StepCase.clears_errs {s t : State} (h : StepCase s t) (cleared : s.errs &&& t.errs ≠ s.errs) :
    s.pending.head? = some .reset ∨ s.pending.head? = some (opMove .errClr) := by
  cases h with
  | resets rest pending => exact .inl (by rw [pending, List.head?_cons])
  | operates w i rest u pending decoded ended =>
    refine .inr ?_
    have isErrClr : i = .errClr := not_ne_iff.1 fun other => cleared (ended.keeps_errs other)
    rw [pending, List.head?_cons, ← decode_eq_ok_iff.1 decoded, isErrClr, opMove]
  | waits | reads | writesRaw | writesValLow | writesValHigh => exact absurd BitVec.and_self cleared
  | refuses | illegal => exact absurd (and_or_absorb _ _) cleared

/-- Settles O47: every other operation, and every move that is neither an operation nor a reset, keeps the bits of `ERRS`
or adds one. -/
theorem errClrAloneClearsTheRecord : Obligations.ErrClrAloneClearsTheRecord :=
  ⟨rfl, fun _ => rfl, fun s t stepped => (step_cases s t stepped).clears_errs⟩

end Sys2Proof.Machine
end

section
/-! The Motor adapter (46_host_software_boundary.md R197): the Message a call builds, the `STATUS` it reads, and its two
ends. -/

namespace Sys2Proof.Machine

theorem issue_opMove {s t : State} {i : Instr} (ms : List HostMove) (executed : exec i s = .next t) :
    issue (opMove i :: ms) s = issue ms (t.respond .done) :=
  issue_cons ms (step_opMove rfl executed)

/-- The `LASTERR` field of `STATUS` starts at bit 8 (R31). -/
theorem statusLasterr_statusWord (s : State) : statusLasterr (statusWord s) = s.lasterr := by
  apply BitVec.eq_of_toNat_eq
  rw [statusLasterr, statusWord_eq, BitVec.extractLsb'_toNat, BitVec.toNat_ofNat, Nat.shiftRight_eq_div_pow]
  have := s.cmdv.toNat_lt
  have := s.tidv.toNat_lt
  have := s.rawv.toNat_lt
  omega

theorem issue_readStatus (s : State) : issue [readStatusMove] s = .next (s.respond (.data (statusWord s))) :=
  issue_cons [] (step_of_serveMove rfl rfl)

theorem lasterrRead_readStatus (s : State) : lasterrRead (s.respond (.data (statusWord s))) = some s.lasterr := by
  rw [lasterrRead, respond_resps, List.getLast?_concat]
  exact congrArg some (statusLasterr_statusWord s)

/-- The block once a call has given it target, command and value, just before `SCALE`. -/
def State.addressed (s : State) (c t : Byte) (v : F64) : State :=
  { s with
    tid := t, tidv := true, cmd := c, cmdv := true, val := v, lasterr := 0
    resps := s.resps ++ [.done, .done, .done, .done] }

/-- The host has been answered `done` to an operation and has then read `STATUS`. -/
def State.checked (s : State) : State := (s.respond .done).respond (.data (statusWord s))

/-- `TID.SET` and `MSG.VAL` with a command of the table (R78). -/
theorem issue_message {c : Byte} (row : ∃ r ∈ Config.cmdtab.rows, r.id = c) (s : State) (t : Byte) (v : F64) :
    issue (opMove (.tidSet t) :: msgValMoves c v) s =
      .next (((s.addressed c t v).scalePayload Config.cmdtab).respond .done) := by
  have selects (u : State) : exec (.cmdSel c) u = .next { u with cmd := c, cmdv := true, lasterr := 0 } :=
    congrArg Host.Outcome.next (selectCommand_of_row u row)
  rw [issue_opMove _ rfl, msgValMoves, List.cons_append, issue_opMove _ (selects _),
    issue_append _ _ _ _ (issue_setValMoves _ v), issue_opMove _ rfl, issue]
  simp only [respond_resps, List.append_assoc]
  rfl

/-- A call goes on to encode only if `SCALE` has reported no error (R197). -/
theorem motorCall_of_scalePayload {c : Byte} (row : ∃ r ∈ Config.cmdtab.rows, r.id = c) {s m : State} {t : Byte}
    {v : F64} (scaled : (s.addressed c t v).scalePayload Config.cmdtab = m) :
    motorCall c t v s = if m.lasterr = 0 then motorEncode m.checked else .next (m.checked, some m.lasterr) := by
  subst scaled
  have issued := (issue_append _ [readStatusMove] _ _ (issue_message row s t v)).trans (issue_readStatus _)
  rw [motorCall_of_issue _ _ _ _ _ issued, lasterrRead_readStatus]
  simp only [Option.some.injEq]
  rfl

/-- The completion code of a submission (R176). -/
def answerCode : SinkAnswer → Byte
  | .ok => 0
  | .err _ => 4

theorem submitAndConclude_lasterr (s : State) (ev : SinkAnswer → OutEvent) :
    (s.submitAndConclude ev).lasterr = answerCode s.nextAnswer := by
  rcases submitAndConclude_cases s ev with ⟨answer, e⟩ | ⟨w, answer, e⟩ <;> rw [answer, e] <;> rfl

theorem submitAndConclude_pending (s : State) (ev : SinkAnswer → OutEvent) :
    (s.submitAndConclude ev).pending = s.pending := by
  rcases submitAndConclude_cases s ev with ⟨-, e⟩ | ⟨w, -, e⟩ <;> simp [e]

/-- The second half of a call submits the Message and answers the code it was answered. -/
theorem motorEncode_of_ready {s : State} (ready : s.messageReady = true) (tidv : s.tidv = true) :
    ∃ u, motorEncode s = .next (u, some (answerCode s.nextAnswer)) ∧
      u.out = s.out ++ [.can (canId s.cmd s.tid) (canPayload s.raw) s.nextAnswer] ∧
      u.crc = s.crc ∧ u.pending = s.pending := by
  have encoded : exec .encCan s = .next _ := execEncCan_of_ready ready tidv
  refine ⟨State.checked _, ?_, submitAndConclude_out s _, submitAndConclude_crc s _, submitAndConclude_pending s _⟩
  rw [motorEncode, issue_opMove _ encoded, issue_readStatus]
  simp only [lasterrRead_readStatus, respond_lasterr, submitAndConclude_lasterr]
  rfl

section
variable {r : CmdRow} {c : Byte} (mem : r ∈ Config.cmdtab.rows) (sameId : r.id = c) (s : State) (t : Byte) {v : F64}
include mem sameId

theorem scaleFor_addressed : scaleFor Config.cmdtab (s.addressed c t v).cmd = r.scale :=
  (congrArg _ sameId.symm).trans (scaleFor_of_mem _ r mem)

theorem motorCall_of_scaled {n : Int} (scaled : scaleRound v r.scale = some n) :
    ∃ u, motorCall c t v s = .next (u, some (answerCode s.nextAnswer)) ∧
      u.out = s.out ++ [.can (canId c t) (canPayload (BitVec.ofInt 32 n)) s.nextAnswer] ∧
      u.crc = s.crc ∧ u.pending = s.pending := by
  have stored := scalePayload_of_some (s := s.addressed c t v) (tab := Config.cmdtab) rfl
    ((congrArg _ (scaleFor_addressed mem sameId s t)).trans scaled)
  rw [(motorCall_of_scalePayload ⟨r, mem, sameId⟩ stored).trans (if_pos rfl)]
  exact motorEncode_of_ready rfl rfl

theorem motorCall_of_overflow (overflow : scaleRound v r.scale = none) :
    ∃ u, motorCall c t v s = .next (u, some 1) ∧ u.out = s.out ∧ u.rawv = false ∧ u.crc = s.crc := by
  have raised := scalePayload_of_none (s := s.addressed c t v) (tab := Config.cmdtab) rfl
    ((congrArg _ (scaleFor_addressed mem sameId s t)).trans overflow)
  rw [(motorCall_of_scalePayload ⟨r, mem, sameId⟩ raised).trans (if_neg (by simp [errNumber]))]
  exact ⟨_, rfl, rfl, rfl, rfl⟩

end

/-- Settles O56: the call reads no error after `SCALE` exactly if the value scales, and then submits what it built. -/
theorem motorCallSubmitsTheScaledPayload : Obligations.MotorCallSubmitsTheScaledPayload :=
  ⟨fun s _ t _ _ _ mem sameId => motorCall_of_scaled mem sameId s t,
   fun s _ t _ _ mem sameId => motorCall_of_overflow mem sameId s t⟩

end Sys2Proof.Machine
end

section
/-! The Drive Mixer's loop over its calls (46_host_software_boundary.md R202, R205). -/

namespace Sys2Proof.Machine

/-- What one call of a tick submits, if anything. -/
def CallSends (r : CmdRow) (c : Byte) (call : Byte × F64) (sent : Option OutEvent) : Prop :=
  (∀ n, scaleRound call.2 r.scale = some n →
    ∃ a, sent = some (.can (canId c call.1) (canPayload (BitVec.ofInt 32 n)) a)) ∧
  (scaleRound call.2 r.scale = none → sent = none)

/-- What the tick reports of a call, from what the call submitted (R205). -/
def callReport (p : (Byte × F64) × Option OutEvent) : Option (Byte × Option Byte) :=
  match p.2 with
  | none => some (p.1.1, some 1)
  | some e => if e.answer = .ok then none else some (p.1.1, some 4)

/-- One call of a tick: what it submits, and that its answer is what the tick reports. -/
theorem motorCall_sends {r : CmdRow} {c : Byte} (mem : r ∈ Config.cmdtab.rows) (sameId : r.id = c) (call : Byte × F64)
    (s : State) :
    ∃ u answer sent, motorCall c call.1 call.2 s = .next (u, answer) ∧ CallSends r c call sent ∧
      u.out = s.out ++ sent.toList ∧
      callReport (call, sent) = if answer = some 0 then none else some (call.1, answer) := by
  cases scaled : scaleRound call.2 r.scale with
  | some n =>
    obtain ⟨u, called, out, -⟩ := motorCall_of_scaled mem sameId s call.1 scaled
    refine ⟨u, _, some _, called, ⟨fun m hm => ⟨s.nextAnswer, ?_⟩, fun overflow => ?_⟩, out, ?_⟩
    · rw [Option.some.inj (scaled.symm.trans hm)]
    · rw [scaled] at overflow; cases overflow
    · cases s.nextAnswer <;> rfl
  | none =>
    obtain ⟨u, called, out, -⟩ := motorCall_of_overflow mem sameId s call.1 scaled
    refine ⟨u, _, none, called, ⟨fun m hm => ?_, fun _ => rfl⟩, ?_, rfl⟩
    · rw [scaled] at hm; cases hm
    · rw [out]; exact (List.append_nil _).symm

/-- A whole tick, call by call. -/
theorem issueCalls_sends {r : CmdRow} {c : Byte} (mem : r ∈ Config.cmdtab.rows) (sameId : r.id = c)
    (calls : List (Byte × F64)) (s : State) :
    ∃ u sent, issueCalls c calls s = .next (u, (calls.zip sent).filterMap callReport) ∧
      List.Forall₂ (CallSends r c) calls sent ∧ u.out = s.out ++ sent.filterMap id := by
  induction calls generalizing s with
  | nil => exact ⟨s, [], rfl, .nil, (List.append_nil _).symm⟩
  | cons call rest ih =>
    obtain ⟨t, answer, e, called, sends, out, report⟩ := motorCall_sends mem sameId call s
    obtain ⟨u, sent, issued, sendsRest, outRest⟩ := ih t
    refine ⟨u, e :: sent, ?_, .cons sends sendsRest, ?_⟩
    · rw [issueCalls_cons c call.1 call.2 rest s t u answer _ called issued, List.zip_cons_cons, List.filterMap_cons,
        report]
      by_cases ok : answer = some 0 <;> simp only [ok, if_true, if_false]
    · rw [outRest, out, List.append_assoc]
      cases e <;> rfl

/-- Settles O57: by induction on the calls, each of which ends and leaves a state from which the rest goes on. -/
theorem mixerSendsToEveryMotor : Obligations.MixerSendsToEveryMotor := by
  intro calls s c r mem sameId
  obtain ⟨u, sent, issued, sends, out⟩ := issueCalls_sends mem sameId calls s
  refine ⟨u, _, sent, issued, sends.length_eq.symm, out, fun k hk => ?_, rfl⟩
  have hk' : k < sent.length := sends.length_eq ▸ hk
  rw [List.getElem?_eq_getElem hk']
  obtain ⟨scaled, overflow⟩ := sends.get hk hk'
  exact ⟨fun n h => (scaled n h).imp fun _ => congrArg some, fun h => congrArg some (overflow h)⟩

end Sys2Proof.Machine
end

section
/-! The Drive Mixer's mapping from velocities to calls (46_host_software_boundary.md R199, R200). -/

namespace Sys2Proof.Machine

/-- The velocity that a side mask selects (R199). -/
def sideVelocity (left right : F64) : Side → F64
  | .left => left
  | .right => right

/-- The two calls of a pair, each id with its own mask (R200). -/
def pairCalls (multiplier left right : F64) (p : MotorPair) : List (Byte × F64) :=
  [(p.id1, f64Mul (sideVelocity left right p.mask1) multiplier),
   (p.id2, f64Mul (sideVelocity left right p.mask2) multiplier)]

theorem mixerCalls_eq_flatMap (cfg : DriveConfig) (left right : F64) :
    mixerCalls cfg left right = cfg.pairs.flatMap (pairCalls cfg.speedMultiplier left right) := by
  rw [mixerCalls, mixerTargets, List.map_flatMap]
  rfl

theorem mixerCalls_length (cfg : DriveConfig) (left right : F64) :
    (mixerCalls cfg left right).length = 2 * cfg.pairs.length := by
  rw [mixerCalls_eq_flatMap]
  induction cfg.pairs with
  | nil => rfl
  | cons p pairs ih =>
    simp only [List.flatMap_cons, List.length_append, ih, pairCalls, List.length_cons, List.length_nil]
    omega

/-- The `k`-th pair's calls start at the `2k`-th call. -/
theorem pairCalls_starts_drop (multiplier left right : F64) {pairs : List MotorPair} {k : Nat} {p : MotorPair}
    (here : pairs[k]? = some p) :
    pairCalls multiplier left right p <+: (pairs.flatMap (pairCalls multiplier left right)).drop (2 * k) := by
  induction pairs generalizing k with
  | nil => simp at here
  | cons q pairs ih =>
    cases k with
    | zero =>
      obtain rfl : q = p := by simpa using here
      exact ⟨_, rfl⟩
    | succ k => exact ih (by simpa using here)

theorem mixerCalls_of_pair {cfg : DriveConfig} (left right : F64) {k : Nat} {p : MotorPair}
    (here : cfg.pairs[k]? = some p) :
    (mixerCalls cfg left right)[2 * k]? =
      some (p.id1, f64Mul (sideVelocity left right p.mask1) cfg.speedMultiplier) ∧
    (mixerCalls cfg left right)[2 * k + 1]? =
      some (p.id2, f64Mul (sideVelocity left right p.mask2) cfg.speedMultiplier) := by
  obtain ⟨rest, e⟩ := pairCalls_starts_drop cfg.speedMultiplier left right here
  rw [← mixerCalls_eq_flatMap] at e
  constructor
  · rw [← Nat.add_zero (2 * k), ← List.getElem?_drop, ← e]; rfl
  · rw [← List.getElem?_drop, ← e]; rfl

/-- Where every mask is Left the right velocity is not used. -/
theorem mixerCalls_of_allLeft {cfg : DriveConfig} (left right right' : F64)
    (allLeft : ∀ p ∈ cfg.pairs, p.mask1 = .left ∧ p.mask2 = .left) :
    mixerCalls cfg left right = mixerCalls cfg left right' := by
  rw [mixerCalls_eq_flatMap, mixerCalls_eq_flatMap]
  refine List.flatMap_congr fun p hp => ?_
  obtain ⟨left1, left2⟩ := allLeft p hp
  rw [pairCalls, pairCalls, left1, left2]
  rfl

/-- Settles O58: the calls are those of the pairs, one pair after the other; doc00's examples are evaluated. -/
theorem mixerFollowsTheMasks : Obligations.MixerFollowsTheMasks := by
  refine ⟨fun cfg l r => ⟨mixerCalls_length cfg l r, fun k p here => ?_⟩,
    fun _ l r r' => mixerCalls_of_allLeft l r r', by decide +kernel, by decide +kernel⟩
  obtain ⟨first, second⟩ := mixerCalls_of_pair l r here
  rw [first, second]
  refine ⟨?_, ?_, ?_, ?_⟩ <;> intro mask <;> rw [mask] <;> rfl

end Sys2Proof.Machine
end

section
/-! The host software's product (46_host_software_boundary.md R201): the product of the signs, the rounding of R133, and
IEEE 754's infinities and NaNs. -/

namespace Sys2Proof.Machine

/-- A finite pattern's value has the pattern's sign (R132). -/
theorem eq_signed_abs_of_val64 {u : F64} {a : Rat} (h : val64 u = .fin a) :
    a = if u.getLsbD 63 then -|a| else |a| := by
  have value := (val64_eq_fin_iff.1 h).2
  have size : |a| = magnitude u := by rw [abs_of_val64 h, magnitude_eq]
  rwa [size]

/-- A rounded product of two finite patterns has the product of their signs. -/
theorem eq_signed_abs_of_rne64_mul {u v : F64} {a b p : Rat} (hu : val64 u = .fin a) (hv : val64 v = .fin b)
    (rounded : rne64 (a * b) = some p) : p = if u.getLsbD 63 ^^ v.getLsbD 63 then -|p| else |p| := by
  have product : a * b = if u.getLsbD 63 ^^ v.getLsbD 63 then -|a * b| else |a * b| := by
    rw [abs_mul]
    conv_lhs => rw [eq_signed_abs_of_val64 hu, eq_signed_abs_of_val64 hv]
    cases u.getLsbD 63 <;> cases v.getLsbD 63 <;> simp
  obtain ⟨-, rfl⟩ := rne64_eq_some_iff.1 rounded
  rw [abs_nearest64]
  conv_lhs => rw [product]
  rw [apply_ite nearest64, nearest64_neg]

theorem f64Mul_of_rounded {u v : F64} {a b p : Rat} (hu : val64 u = .fin a) (hv : val64 v = .fin b)
    (rounded : rne64 (a * b) = some p) : f64Mul u v = patternOf (u.getLsbD 63 ^^ v.getLsbD 63) |p| := by
  simp only [f64Mul, hu, hv, rounded, absRat_eq_abs]

theorem val64_f64Mul_of_rounded {u v : F64} {a b p : Rat} (hu : val64 u = .fin a) (hv : val64 v = .fin b)
    (rounded : rne64 (a * b) = some p) : val64 (f64Mul u v) = .fin p := by
  obtain ⟨w, hw⟩ := (rne64_spec rounded).1
  rw [f64Mul_of_rounded hu hv rounded,
    val64_patternOf _ (onGrid_abs_iff.2 (onGrid_of_val64 hw)) (abs_nonneg p) (abs_lt_of_val64 hw),
    ← eq_signed_abs_of_rne64_mul hu hv rounded]

/-- The infinity of the product of two signs. -/
theorem infPattern_xor (x y : Bool) :
    infPattern (x ^^ y) = if x = y then 0x7FF0000000000000 else 0xFFF0000000000000 := by
  revert x y; decide

/-- The factors whose product is an infinity: the product overflows, or one is an infinity and the other neither a zero
nor a NaN. -/
theorem f64Mul_eq_infPattern {u v : F64}
    (h : (∃ a b, val64 u = .fin a ∧ val64 v = .fin b ∧ rne64 (a * b) = none) ∨
      (val64 u = .inf ∧ val64 v = .inf) ∨
      (val64 u = .inf ∧ ∃ b, b ≠ 0 ∧ val64 v = .fin b) ∨ ((∃ a, a ≠ 0 ∧ val64 u = .fin a) ∧ val64 v = .inf)) :
    f64Mul u v = infPattern (u.getLsbD 63 ^^ v.getLsbD 63) := by
  rcases h with ⟨a, b, hu, hv, overflow⟩ | ⟨hu, hv⟩ | ⟨hu, b, nonzero, hv⟩ | ⟨⟨a, nonzero, hu⟩, hv⟩
  · simp only [f64Mul, hu, hv, overflow]
  · simp only [f64Mul, hu, hv]
  · simp only [f64Mul, hu, hv, infTimes, if_neg nonzero]
  · simp only [f64Mul, hu, hv, infTimes, if_neg nonzero]

/-- The factors whose product is a NaN: one is a NaN, or one is an infinity and the other a zero. -/
theorem f64Mul_eq_nanPattern {u v : F64}
    (h : val64 u = .nan ∨ val64 v = .nan ∨ (val64 u = .inf ∧ val64 v = .fin 0) ∨
      (val64 u = .fin 0 ∧ val64 v = .inf)) : f64Mul u v = nanPattern (Config.hostNan u v) := by
  rcases h with hu | hv | ⟨hu, hv⟩ | ⟨hu, hv⟩
  · simp only [f64Mul, hu]
  · cases hu : val64 u <;> simp only [f64Mul, hu, hv]
  · simp only [f64Mul, hu, hv, infTimes, if_true]
  · simp only [f64Mul, hu, hv, infTimes, if_true]

/-- Settles O59: one case of `f64Mul` for each kind of product. -/
theorem hostProductIsTheIeeeProduct : Obligations.HostProductIsTheIeeeProduct := by
  refine fun u v => ⟨fun a b p hu hv rounded => ⟨val64_f64Mul_of_rounded hu hv rounded, ?_⟩, fun h => ?_, fun h => ?_⟩
  · rw [f64Mul_of_rounded hu hv rounded, getLsbD_63_patternOf]
  · rw [f64Mul_eq_infPattern h, infPattern_xor]
  · rw [f64Mul_eq_nanPattern h, val64_nanPattern]

end Sys2Proof.Machine
end

section
/-! The completion codes of the operations and what a failing operation changes (60_exceptions.md R220, R224, R229). -/

namespace Sys2Proof.Machine

/-- Settles O48: every end of every operation is looked at; a submission ends with 0 or 4. -/
theorem eachOperationEndsWithItsCodes : Obligations.EachOperationEndsWithItsCodes := by
  intro i s t h
  cases exec_cases i s t h with
  | crcInit | crcByte | selected | badCommand | tidSet | tidClr | scaled | overflow | cmdIdRange | missingTargetId
  | errClr => simp
  | incomplete i misses => cases misses <;> simp
  | accepted i c ev as d ready submits => cases submits <;> simp
  | transportError i c ev as d w ready submits => cases submits <;> simp

/-- `raise` marks the bit that its completion code numbers (R223, R224). -/
theorem raise_errs_of_lasterr (s : State) (e : ErrKind) :
    (s.raise e).errs = s.errs ||| 1 <<< (s.raise e).lasterr.toNat := by
  cases e <;> rfl

/-- `RAWV` after a `raise`, told by the completion code (R229). -/
theorem raise_rawv_of_lasterr (s : State) (e : ErrKind) :
    (s.raise e).rawv = if (s.raise e).lasterr = 1 then false else s.rawv := by
  cases e <;> rfl

/-- A kind other than `TransportError` is told by its code, and leaves `XERR` (R229). -/
theorem raise_of_isLocal (s : State) {e : ErrKind} (isLocal : ∀ w, e ≠ .transportError w) :
    (s.raise e).lasterr ≠ 4 ∧ (s.raise e).xerr = s.xerr := by
  cases e with
  | transportError w => exact absurd rfl (isLocal w)
  | checksumMismatch | payloadOverflow | missingTargetId | illegalOp | badCommand | messageIncomplete | cmdIdRange =>
    exact ⟨by simp [errNumber], rfl⟩

/-- The two ways an operation can fail: a check of its own raises an error in the state it found, or the sink answers the
submitted frame with an error word (R156, R176). -/
inductive Fails (s : State) (i : Instr) : State → Prop
  | locally (e : ErrKind) : (∀ w, e ≠ .transportError w) → Fails s i (s.raise e)
  | bySink (c : Half) (ev : SinkAnswer → OutEvent) (as : List SinkAnswer) (d : Nat) (w : Word) : Submits s i c ev →
      Fails s i ({ s with crc := c, out := s.out ++ [ev (.err w)], answers := as, draws := d }.raise (.transportError w))

theorem ExecCase.fails {s t : State} {i : Instr} (h : ExecCase s i t) (failed : t.lasterr ≠ 0) : Fails s i t := by
  cases h with
  | crcInit | crcByte | selected | tidSet | tidClr | scaled | accepted | errClr => exact absurd rfl failed
  | badCommand => exact .locally .badCommand (by simp)
  | overflow => exact .locally .payloadOverflow (by simp)
  | incomplete => exact .locally .messageIncomplete (by simp)
  | cmdIdRange => exact .locally .cmdIdRange (by simp)
  | missingTargetId => exact .locally .missingTargetId (by simp)
  | transportError i c ev as d w ready submits => exact .bySink c ev as d w submits

/-- Settles O49: a local failure is a `raise` and nothing else; a transport error comes after the submission, which gave
`OUT` the event and, for `ENC.UART`, `CRC` the checksum. -/
theorem failingOperationChangesOnlyTheRecord : Obligations.FailingOperationChangesOnlyTheRecord := by
  refine ⟨fun i s t h failed => ?_, fun _ => rfl⟩
  cases (exec_cases i s t h).fails failed with
  | locally e isLocal =>
    obtain ⟨notTransport, sameWord⟩ := raise_of_isLocal s isLocal
    exact ⟨raise_errs_of_lasterr s e, rfl, rfl, rfl, rfl, rfl, rfl, fun is1 => by rw [raise_rawv_of_lasterr, if_pos is1],
      fun ne1 => by rw [raise_rawv_of_lasterr, if_neg ne1], fun _ => ⟨sameWord, rfl, rfl⟩, fun is4 => absurd is4 notTransport⟩
  | bySink c ev as d w submits =>
    obtain ⟨-, answer, -⟩ := submits.spec (.err w)
    refine ⟨raise_errs_of_lasterr _ _, rfl, rfl, rfl, rfl, rfl, rfl, fun is1 => ?_, fun _ => rfl, fun ne4 => absurd rfl ne4,
      fun _ => ⟨ev (.err w), rfl, answer, submits.crc.resolve_right, ?_⟩⟩
    · simp [errNumber] at is1
    · rintro rfl
      cases submits
      rfl

end Sys2Proof.Machine
end
